-- ==== Sys2Proof/Word.lean ====
section
/-! DEFINITION. The word types: every register, record byte and operand byte is 8 bits (spec/00_scope.md R5 `DATA_W`,
R6), the command word is 32 bits (`CW_W`), the response word 16 bits (`RSP_W`). All values are unsigned (R6). -/

namespace Sys2Proof

/-- One byte (R6). -/
abbrev Byte := BitVec 8

/-- A command word `CW` (30_encoding.md R56). -/
abbrev CmdWord := BitVec 32

/-- A response word `RSP` (30_encoding.md R59). -/
abbrev RspWord := BitVec 16

end Sys2Proof
end

