-- ==== Sys2Proof/Syntax.lean ====
section
/-! DEFINITION. The eleven commands as abstract syntax (spec/30_encoding.md R56 to R58): a command word's free fields
together with the operand bytes `DIN` that come with it, so that a (`CW`, `DIN`) pair of the wrong shape is not a term. -/

namespace Sys2Proof

/-- A TimeRecord: seven bytes in this order (R51). -/
structure TimeRecord where
  seconds : Byte
  minutes : Byte
  hours : Byte
  day : Byte
  weekday : Byte
  month : Byte
  year : Byte
  deriving DecidableEq, Repr, Inhabited

/-- An AlarmRecord: five bytes in this order; the control byte is not part of it (R52, 90_conflicts.md C8). -/
structure AlarmRecord where
  seconds : Byte
  minutes : Byte
  hours : Byte
  day : Byte
  weekday : Byte
  deriving DecidableEq, Repr, Inhabited

/-- The buffer argument of WRITE and SETALARM: absent (`P = 0`, the word still carries a length `N`), or present
(`P = 1`, `N` is the number of bytes given) (R56, R58). -/
inductive Source where
  | null (len : Byte)
  | bytes (bs : List Byte)
  deriving DecidableEq, Repr

/-- One constructor per row of the opcode table (R57). -/
inductive Instr where
  /-- ENC `v` (R70). -/
  | enc (v : Byte)
  /-- DEC `b` (R71). -/
  | dec (b : Byte)
  /-- MONTH, the three characters of the name (R80). -/
  | month (c0 c1 c2 : Byte)
  /-- PARSE, the date string and the eight characters of the time string (R82). -/
  | parse (date time : List Byte)
  /-- VTIME (`init = false`) and VTIME.I (`init = true`) (R93). -/
  | vtime (init : Bool) (record : TimeRecord)
  /-- VALARM (R94). -/
  | valarm (record : AlarmRecord)
  /-- VRANGE `start`, `len` (R96). -/
  | vrange (start len : Byte)
  /-- INIT with a record, or `INIT null` (R102). -/
  | init (record : Option TimeRecord)
  /-- READ `start`, `len`; `present` says whether there is a destination buffer (R103). -/
  | read (present : Bool) (start len : Byte)
  /-- WRITE `start` and its source buffer (R104). -/
  | write (start : Byte) (src : Source)
  /-- SETALARM and the record as the caller gave it (R105). -/
  | setalarm (src : Source)
  deriving DecidableEq, Repr

end Sys2Proof
end

