-- ==== Sys2Proof/WellFormed.lean ====
section
/-! DEFINITION. Which terms of Instr are commands: the lengths a command word can carry (spec/30_encoding.md R58: `N` is
8 bits wide, a time string has 8 characters). All other constraints of R58 hold by the types of Syntax. -/

namespace Sys2Proof

/-- A present buffer has at most 255 bytes, since its length is the 8-bit field `N` (R56, R58). -/
def Source.WellFormed : Source → Bool
  | .null _ => true
  | .bytes bs => decide (bs.length ≤ 255)

/-- The length constraints of R58 that the syntax itself does not carry. -/
def Instr.WellFormed : Instr → Bool
  | .enc _ => true
  | .dec _ => true
  | .month _ _ _ => true
  | .parse date time => decide (date.length ≤ 255) && decide (time.length = 8)
  | .vtime _ _ => true
  | .valarm _ => true
  | .vrange _ _ => true
  | .init _ => true
  | .read _ _ _ => true
  | .write _ src => src.WellFormed
  | .setalarm src => src.WellFormed

end Sys2Proof
end

