-- ==== Sys2Proof/Decode.lean ====
section
/-! DEFINITION. Decoding a command word with its operand bytes (spec/30_encoding.md R56, R57, R58, R62, R65), total and
rejecting by name, and after it the encoder, written from the field layout of R56. -/

namespace Sys2Proof

/-- The operations of the opcode map (R57). -/
inductive Op where
  | enc | dec | month | parse | vtime | valarm | vrange | init | read | write | setalarm
  deriving DecidableEq, Repr

/-- A row of the opcode map: `OP` code, match and mask (R57). -/
structure Row where
  op : Op
  code : BitVec 4
  pattern : CmdWord
  mask : CmdWord
  deriving DecidableEq, Repr

/-- The opcode map (R57). -/
def opcodeRows : List Row :=
  [ ⟨.enc, 0x1, 0x10000000, 0xFFFF00FF⟩,
    ⟨.dec, 0x2, 0x20000000, 0xFFFF00FF⟩,
    ⟨.month, 0x3, 0x38000003, 0xFFFFFFFF⟩,
    ⟨.parse, 0x4, 0x48000000, 0xFFFFFF00⟩,
    ⟨.vtime, 0x5, 0x58000007, 0xFFFFFEFF⟩,
    ⟨.valarm, 0x6, 0x68000005, 0xFFFFFFFF⟩,
    ⟨.vrange, 0x7, 0x70000000, 0xFFFF0000⟩,
    ⟨.init, 0x8, 0x80000007, 0xF7FFFFFF⟩,
    ⟨.read, 0x9, 0x90000000, 0xF7FF0000⟩,
    ⟨.write, 0xA, 0xA0000000, 0xF7FF0000⟩,
    ⟨.setalarm, 0xB, 0xB0000000, 0xF7FFFF00⟩ ]

/-- `CW.OP = CW[31:28]` (R56). -/
def opField (w : CmdWord) : BitVec 4 := w.extractLsb' 28 4

/-- `CW.P = CW[27]` (R56). -/
def pField (w : CmdWord) : Bool := w.getLsbD 27

/-- `CW.Z = CW[26:16]`, reserved (R56). -/
def zField (w : CmdWord) : BitVec 11 := w.extractLsb' 16 11

/-- `CW.A = CW[15:8]` (R56). -/
def aField (w : CmdWord) : Byte := w.extractLsb' 8 8

/-- `CW.N = CW[7:0]` (R56). -/
def nField (w : CmdWord) : Byte := w.extractLsb' 0 8

/-- `I = CW[8]`, the mode bit of VTIME (R65). -/
def iField (w : CmdWord) : Bool := w.getLsbD 8

/-- The operation a word stands for, none for an illegal word: the row with that `OP`, then `w & mask = match`
(R62, R65). -/
def opOf (w : CmdWord) : Option Op :=
  match opcodeRows.find? (fun r => r.code == opField w) with
  | none => none
  | some r => if w &&& r.mask = r.pattern then some r.op else none

/-- `DLEN` of an operation, from `P` and `N` (R58). -/
def dlenOf (op : Op) (p : Bool) (n : Byte) : Nat :=
  match op with
  | .enc => 0
  | .dec => 0
  | .month => 3
  | .parse => n.toNat + 8
  | .vtime => 7
  | .valarm => 5
  | .vrange => 0
  | .init => if p then 7 else 0
  | .read => 0
  | .write => if p then n.toNat else 0
  | .setalarm => if p then n.toNat else 0

/-- `DLEN`: how many operand bytes come with a word; none with an illegal word (R58). -/
def dlen (w : CmdWord) : Nat :=
  match opOf w with
  | none => 0
  | some op => dlenOf op (pField w) (nField w)

/-- Seven bytes as a TimeRecord (R51). -/
def timeRecordOfBytes : List Byte → Option TimeRecord
  | [b0, b1, b2, b3, b4, b5, b6] => some ⟨b0, b1, b2, b3, b4, b5, b6⟩
  | _ => none

/-- Five bytes as an AlarmRecord (R52). -/
def alarmRecordOfBytes : List Byte → Option AlarmRecord
  | [b0, b1, b2, b3, b4] => some ⟨b0, b1, b2, b3, b4⟩
  | _ => none

/-- The buffer argument of WRITE and SETALARM (R58). -/
def sourceOf (p : Bool) (n : Byte) (din : List Byte) : Source :=
  if p then .bytes din else .null n

/-- The command of an operation with its fields and its operand bytes; none where the bytes do not fit. -/
def assemble (op : Op) (w : CmdWord) (din : List Byte) : Option Instr :=
  match op with
  | .enc => some (.enc (aField w))
  | .dec => some (.dec (aField w))
  | .month =>
    match din with
    | [c0, c1, c2] => some (.month c0 c1 c2)
    | _ => none
  | .parse => some (.parse (din.take (nField w).toNat) (din.drop (nField w).toNat))
  | .vtime => (timeRecordOfBytes din).map (Instr.vtime (iField w))
  | .valarm => (alarmRecordOfBytes din).map Instr.valarm
  | .vrange => some (.vrange (aField w) (nField w))
  | .init => if pField w then (timeRecordOfBytes din).map (fun r => .init (some r)) else some (.init none)
  | .read => some (.read (pField w) (aField w) (nField w))
  | .write => some (.write (aField w) (sourceOf (pField w) (nField w) din))
  | .setalarm => some (.setalarm (sourceOf (pField w) (nField w) din))

/-- What a (`CW`, `DIN`) pair is. -/
inductive Decoded where
  /-- A command. -/
  | instr (i : Instr)
  /-- The word matches no row of the opcode map: answered `IllegalCommand` (R62). -/
  | illegalWord
  /-- `DIN` has another length than `DLEN`: not a command at all (R58, 93_implementation_defined.md U15). -/
  | dinLength
  deriving DecidableEq, Repr

/-- The decoding procedure (R65). It reads no state. -/
def decode (w : CmdWord) (din : List Byte) : Decoded :=
  if din.length = dlen w then
    match opOf w with
    | none => .illegalWord
    | some op =>
      match assemble op w din with
      | some i => .instr i
      | none => .dinLength
  else .dinLength

/-- Operand byte `i` of a number whose bits 31 to 0 are the command word: bits `32 + 8 i + 7` to `32 + 8 i`. -/
def dinOfBits (w : Nat) (len : Nat) : List Byte :=
  (List.range len).map fun i => BitVec.ofNat 8 (w >>> (32 + 8 * i))

/-- The command word of a number of `nbits` bits (the bits above are 0). -/
def tableWord (nbits w : Nat) : CmdWord := BitVec.ofNat 32 (w % 2 ^ nbits)

/-- The operand bytes of a number of `nbits` bits, as many as the word's `DLEN` asks for (the bits above are 0). -/
def tableDin (nbits w : Nat) : List Byte := dinOfBits (w % 2 ^ nbits) (dlen (tableWord nbits w))

/-- The instruction read from the bits of an opcode-table row: bit 0 of the table is bit 0 of `CW`, and the operand
bytes the table gives no bits are 0 (assumption log 12). -/
def decodeTableWord (nbits w : Nat) : Option Instr :=
  match decode (tableWord nbits w) (tableDin nbits w) with
  | .instr i => some i
  | .illegalWord => none
  | .dinLength => none

/-- `CW = {OP[3:0], P, Z[10:0] = 0, A[7:0], N[7:0]}` (R56). -/
def packWord (op : BitVec 4) (p : Bool) (a n : Byte) : CmdWord :=
  op ++ BitVec.ofBool p ++ 0#11 ++ a ++ n

/-- `P` of a buffer argument (R56). -/
def Source.present : Source → Bool
  | .null _ => false
  | .bytes _ => true

/-- `N` of a buffer argument (R56, R58). -/
def Source.len : Source → Byte
  | .null n => n
  | .bytes bs => BitVec.ofNat 8 bs.length

/-- `DIN` of a buffer argument (R58). -/
def Source.din : Source → List Byte
  | .null _ => []
  | .bytes bs => bs

/-- The seven bytes of a TimeRecord, seconds first (R51). -/
def TimeRecord.toBytes (r : TimeRecord) : List Byte :=
  [r.seconds, r.minutes, r.hours, r.day, r.weekday, r.month, r.year]

/-- The five bytes of an AlarmRecord (R52). -/
def AlarmRecord.toBytes (r : AlarmRecord) : List Byte :=
  [r.seconds, r.minutes, r.hours, r.day, r.weekday]

/-- The command word of a command, field by field from R56, R57 and R63. -/
def encodeWord : Instr → CmdWord
  | .enc v => packWord 1 false v 0
  | .dec b => packWord 2 false b 0
  | .month _ _ _ => packWord 3 true 0 3
  | .parse date _ => packWord 4 true 0 (BitVec.ofNat 8 date.length)
  | .vtime init _ => packWord 5 true (if init then 1 else 0) 7
  | .valarm _ => packWord 6 true 0 5
  | .vrange start len => packWord 7 false start len
  | .init record => packWord 8 record.isSome 0 7
  | .read present start len => packWord 9 present start len
  | .write start src => packWord 10 src.present start src.len
  | .setalarm src => packWord 11 src.present 0 src.len

/-- The operand bytes of a command (R58, R63). -/
def encodeDin : Instr → List Byte
  | .enc _ => []
  | .dec _ => []
  | .month c0 c1 c2 => [c0, c1, c2]
  | .parse date time => date ++ time
  | .vtime _ record => record.toBytes
  | .valarm record => record.toBytes
  | .vrange _ _ => []
  | .init none => []
  | .init (some record) => record.toBytes
  | .read _ _ _ => []
  | .write _ src => src.din
  | .setalarm src => src.din

/-- The row of the opcode map a command belongs to (R57). -/
def Instr.op : Instr → Op
  | .enc _ => .enc
  | .dec _ => .dec
  | .month _ _ _ => .month
  | .parse _ _ => .parse
  | .vtime _ _ => .vtime
  | .valarm _ => .valarm
  | .vrange _ _ => .vrange
  | .init _ => .init
  | .read _ _ _ => .read
  | .write _ _ => .write
  | .setalarm _ => .setalarm

/-- The words of a command: its command word and its operand bytes. -/
def encode (i : Instr) : CmdWord × List Byte := (encodeWord i, encodeDin i)

/-- `RDTIME`, the written short form of `READ 0x04, 7` (R64). -/
def rdtime : Instr := .read true 0x04 7

/-- `RDALARM`, the written short form of `READ 0x0B, 5` (R64). -/
def rdalarm : Instr := .read true 0x0B 5

/-- `RDALL`, the written short form of `READ 0x00, 18` (R64). -/
def rdall : Instr := .read true 0x00 18

/-- `RDCTRL`, the written short form of `READ 0x01, 1` (R64). -/
def rdctrl : Instr := .read true 0x01 1

end Sys2Proof
end

