-- ==== Sys2Proof/Config.lean ====
section
/-! DEFINITION. The parameters of the block (spec/00_scope.md R5): the fixed and decided ones as constants, the open ones
(`ENV`, `DEV_RESET`, `PARSE_UNSPEC`) as opaque free values that nothing in Lean can evaluate. -/

namespace Sys2Proof

/-- An answer to `ENV.i2c_device_ready()` or `ENV.irq_line_setup()` (43_register_access.md R102). -/
inductive SetupAnswer where
  | ok
  | fail
  deriving DecidableEq, Repr, Inhabited

/-- An answer to a burst transfer (20_memory.md R36). -/
inductive TransferAnswer where
  | ok
  | fail
  | hang
  deriving DecidableEq, Repr, Inhabited

namespace Config

/-- `REG_SPACE`: the number of device registers, addresses `0x00` to `0x11` (R5). -/
def regSpace : Nat := 18

/-- `CTRL_ADDR`: the register that holds the alarm-enable bit (R5). -/
def ctrlAddr : Nat := 0x01

/-- `ALARM_EN_BIT` (R5). -/
def alarmEnBit : Nat := 7

/-- `ALARM_CTRL_BYTE`: the byte `set_alarm` writes to `CTRL_ADDR` (R5, R52, decision D14). -/
def alarmCtrlByte : Byte := 0x80

/-- `TIME_BASE` (R5). -/
def timeBase : Nat := 0x04

/-- `ALARM_BASE` (R5). -/
def alarmBase : Nat := 0x0B

/-- `ALARM_LEN` (R5). -/
def alarmLen : Nat := 5

/-- `CHIP_ADDR`: the 7-bit bus address of the device, the same on every call (R5, R36). -/
def chipAddr : BitVec 7 := 0x51

/-- `SEC_MAX`, `MIN_MAX` (R5). -/
def secMax : Byte := 0x59

/-- `HOUR_MAX` (R5). -/
def hourMax : Byte := 0x23

/-- `DAY_MIN` (R5). -/
def dayMin : Byte := 0x01

/-- `DAY_MAX` (R5). -/
def dayMax : Byte := 0x31

/-- `MONTH_MIN` (R5). -/
def monthMin : Byte := 0x01

/-- `MONTH_MAX`: `0x12`, not the `0x31` of the source code (R5, 90_conflicts.md C1). -/
def monthMax : Byte := 0x12

/-- `WEEKDAY_FIXED` (R5). -/
def weekdayFixed : Byte := 0x00

/-- `DEV_RESET`, OPEN: what the device register at an address holds at power-on (R23, R24, decision D30). Free value,
assumption log 1. -/
opaque devReset : Nat → Byte

/-- `PARSE_UNSPEC`, OPEN: the seven bytes of PARSE on ill-formed strings, a function of the two strings alone
(R82 (e), decision D20). Free value, assumption log 4. -/
opaque parseUnspec : List Byte → List Byte → TimeRecord

/-- `ENV`, OPEN: the `n`-th answer to `i2c_device_ready` for which State holds no answer. Free value, assumption log 2. -/
opaque freeDeviceReady : Nat → SetupAnswer

/-- `ENV`, OPEN: the `n`-th answer to `irq_line_setup` for which State holds no answer. Free value, assumption log 2. -/
opaque freeIrqSetup : Nat → SetupAnswer

/-- `ENV`, OPEN: the `n`-th answer to a burst transfer for which State holds no answer (R36: "no rule constrains it").
Free value, assumption log 2. -/
opaque freeTransfer : Nat → TransferAnswer

end Config
end Sys2Proof
end

