-- ==== Sys2Proof/Machine/State.lean ====
section
/-! DEFINITION. The state (spec/10_state.md R10 to R18), the reset state (R23, R140, R141), and the reasons a step can
stop. The spec's elements come first; `env`, `agenda` and `trace` are the model's own fields: they hold the oracle's
answers, what the outside does next, and what left the block, as plain data (assumption log 2, 3, 6). -/

namespace Sys2Proof.Machine

/-- `GS`, the guard state (R11); the code 3 is never produced and has no constructor. -/
inductive GuardState where
  | uninitialized
  | ready
  | failed
  deriving DecidableEq, Repr

/-- The result codes `ERR` of a response (30_encoding.md R60). -/
inductive ErrCode where
  | ok
  | invalidParameter
  | deviceSetupError
  | i2cWriteError
  | i2cReadError
  | illegalCommand
  deriving DecidableEq, Repr

/-- The sub-codes `DETAIL` of a response, by their meaning (30_encoding.md R61). -/
inductive Detail where
  /-- `0x0`. -/
  | plain
  /-- `DeviceSetupError 1`: the I2C device was not ready (INIT). -/
  | i2cDevice
  /-- `DeviceSetupError 2`: the interrupt line could not be set up (INIT). -/
  | irqLine
  /-- `DeviceSetupError 3`: the guard is not `Ready` (READ, WRITE, SETALARM). -/
  | guard
  /-- `OK` of DEC, 1: the input byte was not a valid BCD byte. -/
  | notBcd
  deriving DecidableEq, Repr

/-- A response: the fields of `RSP`, and `DOUT` (30_encoding.md R59). -/
structure Response where
  err : ErrCode
  detail : Detail
  val : Byte
  dout : List Byte
  deriving DecidableEq, Repr

/-- What leaves the block: questions to the environment and burst transfers, with the answers they got
(20_memory.md R36, 43_register_access.md R102), responses (30_encoding.md R59) and snapshots (60_exceptions.md R136). -/
inductive Output where
  | deviceReady (answer : SetupAnswer)
  | irqSetup (answer : SetupAnswer)
  | burstRead (chip : BitVec 7) (start len : Nat) (answer : TransferAnswer)
  | burstWrite (chip : BitVec 7) (start : Nat) (bytes : List Byte) (answer : TransferAnswer)
  | response (r : Response)
  | snapshot (bytes : List Byte)
  deriving DecidableEq, Repr

/-- A step of the outside world: the host presents a command or drives `CLEAR`, the line rises, the deferred-work runner
gets its turn, the block is reset (10_state.md R20, R22, 60_exceptions.md R127, R128, 70_reset_and_hazards.md R140). -/
inductive Event where
  | command (cw : CmdWord) (din : List Byte)
  | edge
  | run
  | clear
  | reset
  deriving DecidableEq, Repr

/-- The answers the environment oracle gives next, by kind of call, and how many answers were taken beyond them
(20_memory.md R36, assumption log 2). -/
structure Env where
  deviceReady : List SetupAnswer
  irqSetup : List SetupAnswer
  transfer : List TransferAnswer
  draws : Nat
  deriving DecidableEq, Repr

/-- The device register file as (address, byte) cells. Its one canonical form, `Memory.wf`, lists exactly the addresses
0 to 17 in rising order; an address it does not list does not exist (20_memory.md R30, R31, assumption log 7). -/
abbrev Memory := List Host.Cell

/-- The whole state (R10). -/
structure State where
  /-- `GS` (R11). -/
  gs : GuardState
  /-- `HC`, device handle cached (R12). -/
  hc : Bool
  /-- `IRQ_EN`, callback registered (R13). -/
  irqEn : Bool
  /-- `WORK_PENDING`, the one slot of the deferred-work queue (R14). -/
  workPending : Bool
  /-- `ALARM_FIRED`, the latch (R15). -/
  alarmFired : Bool
  /-- `HUNG`, a transport call never returned (R17). -/
  hung : Bool
  /-- `DEV[0..17]`, the device register file (R16). -/
  dev : Memory
  /-- The model's own: the environment's answers. -/
  env : Env
  /-- The model's own: what the outside world does next, in order. -/
  agenda : List Event
  /-- The model's own: what has left the block, newest first. Nothing in the block reads it. -/
  trace : List Output
  deriving DecidableEq, Repr

/-- Why a step stops with a fault. -/
inductive Fault where
  /-- Raised by a burst transfer that the transport answers `ok` and that touches an address `dev` does not list
  (20_memory.md R30: 18 locations and nothing else). Safe: no state with a canonical register file raises it, because
  every transfer passes the bounds check of R35. -/
  | noSuchRegister (start : Nat)
  deriving DecidableEq, Repr

/-- Why a step has no meaning. -/
inductive Refusal where
  /-- Raised by an arm of exec whose instruction has no meaning yet. Safe. No arm raises it. -/
  | notModelled (mnemonic : String)
  /-- Raised when the host presents a (`CW`, `DIN`) pair whose `DIN` has another length than `DLEN`: "not a command",
  "the block has no behaviour for it" (30_encoding.md R58, 93_implementation_defined.md U15: refuse). Safe. -/
  | dinLength
  deriving DecidableEq, Repr

/-- What one step answers. -/
abbrev Result := Host.Outcome State Fault Refusal

/-- The device register file at power-on: every register holds its byte of the open parameter `DEV_RESET` (R23, R24). -/
def Memory.powerOn : Memory := (List.range Config.regSpace).map fun a => (a, Config.devReset a)

/-- The machine right after power-on (R23, R141). -/
def State.reset : State where
  gs := .uninitialized
  hc := false
  irqEn := false
  workPending := false
  alarmFired := false
  hung := false
  dev := Memory.powerOn
  env := { deviceReady := [], irqSetup := [], transfer := [], draws := 0 }
  agenda := []
  trace := []

end Sys2Proof.Machine
end

