-- ==== Sys2Proof/Machine/Ops.lean ====
section
/-! DEFINITION. The shared operations: field updates, the device register file (spec/20_memory.md R30 to R37), the draws
from the environment oracle, the burst transfers (R36, R37), giving a response (30_encoding.md R59), and taking an error
(60_exceptions.md R123). -/

namespace Sys2Proof.Machine

/-! ### Field updates -/

/-- `GS <- v`. -/
def State.setGs (s : State) (v : GuardState) : State := { s with gs := v }

/-- `HC <- v`. -/
def State.setHc (s : State) (v : Bool) : State := { s with hc := v }

/-- `IRQ_EN <- v`. -/
def State.setIrqEn (s : State) (v : Bool) : State := { s with irqEn := v }

/-- `WORK_PENDING <- v`. -/
def State.setWorkPending (s : State) (v : Bool) : State := { s with workPending := v }

/-- `ALARM_FIRED <- v`. -/
def State.setAlarmFired (s : State) (v : Bool) : State := { s with alarmFired := v }

/-- `HUNG <- v`. -/
def State.setHung (s : State) (v : Bool) : State := { s with hung := v }

/-- The device register file as a whole. -/
def State.setDev (s : State) (v : Memory) : State := { s with dev := v }

/-- The oracle's remaining answers. -/
def State.setEnv (s : State) (v : Env) : State := { s with env := v }

/-- What the outside world does next. -/
def State.setAgenda (s : State) (v : List Event) : State := { s with agenda := v }

/-- Something leaves the block. -/
def State.emit (s : State) (o : Output) : State := { s with trace := o :: s.trace }

/-! ### The device register file -/

/-- The canonical form: exactly the registers `0x00` to `0x11`, in rising order (R30, R31). -/
abbrev Memory.wf (m : Memory) : Prop := m.map Prod.fst = List.range Config.regSpace

/-- `DEV[a]`; none where the file lists no such register. -/
def Memory.read : Memory → Nat → Option Byte
  | [], _ => none
  | (k, b) :: m, a => if k = a then some b else Memory.read m a

/-- `DEV[a] <- v`, every other register unchanged (R37). -/
def Memory.write (m : Memory) (a : Nat) (v : Byte) : Memory :=
  m.map fun c => if c.1 = a then (a, v) else c

/-- The bytes of `len` registers from `start` on, in rising order (R33, R37). -/
def Memory.readRange (m : Memory) (start : Nat) : Nat → Option (List Byte)
  | 0 => some []
  | len + 1 =>
    match m.read start, Memory.readRange m (start + 1) len with
    | some b, some bs => some (b :: bs)
    | _, _ => none

/-- `DEV[start + i] <- v[i]` for every byte of `v` (R33, R37). -/
def Memory.writeRange (m : Memory) (start : Nat) : List Byte → Memory
  | [] => m
  | b :: bs => Memory.writeRange (m.write start b) (start + 1) bs

/-- Every register of the range exists. -/
def Memory.covers (m : Memory) (start len : Nat) : Bool :=
  (List.range' start len).all fun a => (m.read a).isSome

/-! ### Draws from the environment oracle (R36; 43_register_access.md R102) -/

/-- What `ENV.i2c_device_ready()` answers next. -/
def State.deviceReadyAnswer (s : State) : SetupAnswer :=
  match s.env.deviceReady with
  | a :: _ => a
  | [] => Config.freeDeviceReady s.env.draws

/-- What `ENV.irq_line_setup()` answers next. -/
def State.irqSetupAnswer (s : State) : SetupAnswer :=
  match s.env.irqSetup with
  | a :: _ => a
  | [] => Config.freeIrqSetup s.env.draws

/-- What the transport answers to the next burst transfer. -/
def State.transferAnswer (s : State) : TransferAnswer :=
  match s.env.transfer with
  | a :: _ => a
  | [] => Config.freeTransfer s.env.draws

/-- One answer to `i2c_device_ready` is used up. -/
def Env.dropDeviceReady (e : Env) : Env :=
  match e.deviceReady with
  | _ :: rest => { e with deviceReady := rest }
  | [] => { e with draws := e.draws + 1 }

/-- One answer to `irq_line_setup` is used up. -/
def Env.dropIrqSetup (e : Env) : Env :=
  match e.irqSetup with
  | _ :: rest => { e with irqSetup := rest }
  | [] => { e with draws := e.draws + 1 }

/-- One answer of the transport is used up. -/
def Env.dropTransfer (e : Env) : Env :=
  match e.transfer with
  | _ :: rest => { e with transfer := rest }
  | [] => { e with draws := e.draws + 1 }

/-- The block asks `ENV.i2c_device_ready()`. -/
def State.askDeviceReady (s : State) : State :=
  (s.setEnv s.env.dropDeviceReady).emit (.deviceReady s.deviceReadyAnswer)

/-- The block asks `ENV.irq_line_setup()`. -/
def State.askIrqSetup (s : State) : State :=
  (s.setEnv s.env.dropIrqSetup).emit (.irqSetup s.irqSetupAnswer)

/-- The block issues `ENV.burst_read(CHIP_ADDR, start, len)`. -/
def State.issueRead (s : State) (start len : Nat) : State :=
  (s.setEnv s.env.dropTransfer).emit (.burstRead Config.chipAddr start len s.transferAnswer)

/-- The block issues `ENV.burst_write(CHIP_ADDR, start, bytes)`. -/
def State.issueWrite (s : State) (start : Nat) (bytes : List Byte) : State :=
  (s.setEnv s.env.dropTransfer).emit (.burstWrite Config.chipAddr start bytes s.transferAnswer)

/-! ### The transport -/

/-- How a burst transfer ends: with a value, failed (nothing transferred), hung (`HUNG` set), or on an address that does
not exist. -/
inductive Transfer (α : Type) where
  | done (value : α) (s : State)
  | failed (s : State)
  | hung (s : State)
  | absent (start : Nat)

/-- `MemRead(start, len)` (R36, R37; 43_register_access.md R108). -/
def State.memRead (s : State) (start len : Nat) : Transfer (List Byte) :=
  match s.transferAnswer with
  | .ok =>
    match s.dev.readRange start len with
    | some bytes => .done bytes (s.issueRead start len)
    | none => .absent start
  | .fail => .failed (s.issueRead start len)
  | .hang => .hung ((s.issueRead start len).setHung true)

/-- `MemWrite(start, len, bytes)` with `len` the number of bytes (R36, R37; 43_register_access.md R108). -/
def State.memWrite (s : State) (start : Nat) (bytes : List Byte) : Transfer Unit :=
  match s.transferAnswer with
  | .ok =>
    if s.dev.covers start bytes.length then
      .done () ((s.issueWrite start bytes).setDev (s.dev.writeRange start bytes))
    else .absent start
  | .fail => .failed (s.issueWrite start bytes)
  | .hang => .hung ((s.issueWrite start bytes).setHung true)

/-! ### Responses and errors -/

/-- `respond(err, detail, val, dout)`: the one response that ends a command (30_encoding.md R59). -/
def State.respond (s : State) (err : ErrCode) (detail : Detail) (val : Byte) (dout : List Byte) : Result :=
  .next (s.emit (.response ⟨err, detail, val, dout⟩))

/-- `raise <Error>(detail)`: taking an error. It is a response and nothing else: nothing is saved, no mode changes, no
vector is taken (60_exceptions.md R123). There is no return: nothing is to be restored (R124). -/
def State.raise (s : State) (err : ErrCode) (detail : Detail) : Result :=
  s.respond err detail 0 []

end Sys2Proof.Machine
end

