-- ==== Sys2Proof/Machine/Operands.lean ====
section
/-! DEFINITION. The operand forms: the bounds check and the register mapper (spec/20_memory.md R32, R35), characters and
digit pairs (30_encoding.md R55, 41_timestamp.md R83), and the well-formed date and time strings (R84). -/

namespace Sys2Proof.Machine

/-- `range_ok(start, len)`, the sum exact, never reduced modulo 256 (R35). -/
def rangeOk (start len : Byte) : Bool :=
  decide (1 ≤ len.toNat) && decide (len.toNat ≤ Config.regSpace) && decide (start.toNat + len.toNat ≤ Config.regSpace)

/-- `time_reg(i)`: the register of TimeRecord field `i` (R32). -/
def timeReg (i : Nat) : Nat := Config.timeBase + i

/-- `alarm_reg(j)`: the register of AlarmRecord field `j` (R32). -/
def alarmReg (j : Nat) : Nat := Config.alarmBase + j

/-- `is_digit(c)`: an ASCII digit (30_encoding.md R55). -/
def isDigit (c : Byte) : Bool := decide (0x30 ≤ c.toNat) && decide (c.toNat ≤ 0x39)

/-- `digit(c)`, meant only where `isDigit c` (30_encoding.md R55). -/
def digit (c : Byte) : Nat := c.toNat - 0x30

/-- `S[k]`, meant only where `k` is inside the string: R84 admits no other read. -/
def charAt (str : List Byte) (k : Nat) : Byte := str.getD k 0

/-- The string has a character at offset `k` and it is a digit. -/
def digitAt (str : List Byte) (k : Nat) : Bool :=
  match str[k]? with
  | some c => isDigit c
  | none => false

/-- The string has a character at offset `k` and it is a space, `0x20`. -/
def spaceAt (str : List Byte) (k : Nat) : Bool :=
  match str[k]? with
  | some c => decide (c = 0x20)
  | none => false

/-- `pair(S, k)`, meant only where both characters are digits (41_timestamp.md R83). -/
def pairAt (str : List Byte) (k : Nat) : Nat := 10 * digit (charAt str k) + digit (charAt str (k + 1))

/-- `sp(DATE)`: the offset of the space that ends the day (41_timestamp.md R84). -/
def dayEnd (date : List Byte) : Nat := if spaceAt date 5 then 5 else 6

/-- `WF_DATE(DATE)`, read left to right (41_timestamp.md R84). -/
def wfDate (date : List Byte) : Bool :=
  decide (8 ≤ date.length)
    && digitAt date 4
    && (spaceAt date 5 || (decide (9 ≤ date.length) && digitAt date 5 && spaceAt date 6))
    && decide (dayEnd date < date.length - 2)
    && (digitAt date (date.length - 2) && digitAt date (date.length - 1))

/-- `WF_TIME(TIME)` (41_timestamp.md R84). -/
def wfTime (time : List Byte) : Bool :=
  digitAt time 0 && digitAt time 1 && digitAt time 3 && digitAt time 4 && digitAt time 6 && digitAt time 7

end Sys2Proof.Machine
end

