-- ==== Sys2Proof/Machine/Flags.lean ====
section
/-! DEFINITION. What is computed about results: BCD validity and the failing-field masks (spec/42_validator.md R90 to
R92), the coded response word (30_encoding.md R59 to R61), and the status outputs with the only flag, `ALARM_FIRED`
(10_state.md R15, R21, R22). -/

namespace Sys2Proof.Machine

/-- The high nibble `b[7:4]` (00_scope.md R6). -/
def hiNibble (b : Byte) : BitVec 4 := b.extractLsb' 4 4

/-- The low nibble `b[3:0]` (00_scope.md R6). -/
def loNibble (b : Byte) : BitVec 4 := b.extractLsb' 0 4

/-- `bcd_valid(b)` (R90). -/
def bcdValid (b : Byte) : Bool := decide ((hiNibble b).toNat ≤ 9) && decide ((loNibble b).toNat ≤ 9)

/-- The seconds or minutes byte is legal (R91, R92). -/
def secOk (b : Byte) : Bool := bcdValid b && decide (b ≤ Config.secMax)

/-- The hours byte is legal (R91, R92). -/
def hourOk (b : Byte) : Bool := bcdValid b && decide (b ≤ Config.hourMax)

/-- The day byte is legal (R91, R92). -/
def dayOk (b : Byte) : Bool := bcdValid b && decide (Config.dayMin ≤ b) && decide (b ≤ Config.dayMax)

/-- The weekday byte is legal (R91, R92). -/
def weekdayOk (b : Byte) : Bool := decide (b = Config.weekdayFixed)

/-- The month byte is legal (R91). -/
def monthOk (b : Byte) : Bool := bcdValid b && decide (Config.monthMin ≤ b) && decide (b ≤ Config.monthMax)

/-- The year byte is legal; `init` says that the record is used to initialize the clock (R91). -/
def yearOk (init : Bool) (b : Byte) : Bool := bcdValid b && (!init || decide (b ≠ 0x00))

/-- A number whose bit `i` is 1 exactly when entry `i` of the list is false. -/
def failMask : List Bool → Nat
  | [] => 0
  | legal :: rest => (if legal then 0 else 1) + 2 * failMask rest

/-- `time_mask(r, init)`: bit `i` is 1 exactly when field `i` breaks an invariant (R91). -/
def timeMask (r : TimeRecord) (init : Bool) : BitVec 7 :=
  BitVec.ofNat 7 (failMask
    [secOk r.seconds, secOk r.minutes, hourOk r.hours, dayOk r.day, weekdayOk r.weekday, monthOk r.month,
      yearOk init r.year])

/-- `alarm_mask(a)`: bit `j` is 1 exactly when alarm field `j` is illegal (R92). -/
def alarmMask (a : AlarmRecord) : BitVec 5 :=
  BitVec.ofNat 5 (failMask [secOk a.seconds, secOk a.minutes, hourOk a.hours, dayOk a.day, weekdayOk a.weekday])

/-- The number of a result code in `ERR` (30_encoding.md R60). -/
def ErrCode.code : ErrCode → BitVec 4
  | .ok => 0x0
  | .invalidParameter => 0x1
  | .deviceSetupError => 0x2
  | .i2cWriteError => 0x3
  | .i2cReadError => 0x4
  | .illegalCommand => 0xF

/-- The number of a sub-code in `DETAIL` (30_encoding.md R61). -/
def Detail.code : Detail → BitVec 4
  | .plain => 0x0
  | .i2cDevice => 0x1
  | .irqLine => 0x2
  | .guard => 0x3
  | .notBcd => 0x1

/-- `RSP = {ERR[3:0], DETAIL[3:0], VAL[7:0]}` (30_encoding.md R59). -/
def Response.word (r : Response) : RspWord := r.err.code ++ r.detail.code ++ r.val

/-- The coding of the guard state in 2 bits (10_state.md R11). -/
def GuardState.code : GuardState → BitVec 2
  | .uninitialized => 0
  | .ready => 1
  | .failed => 2

/-- `gs[1:0]`, a status output readable at any time without a command and without any effect (10_state.md R22). -/
def State.statusGs (s : State) : BitVec 2 := s.gs.code

/-- `hc`, a status output (10_state.md R22). -/
def State.statusHc (s : State) : Bool := s.hc

/-- `alarm_fired`, a status output (10_state.md R22). -/
def State.statusAlarmFired (s : State) : Bool := s.alarmFired

end Sys2Proof.Machine
end

