-- ==== Sys2Proof/Machine/Codec.lean ====
section
/-! DEFINITION. The BCD codec: ENC and DEC (spec/40_bcd_codec.md R70, R71, R72). -/

namespace Sys2Proof.Machine

/-- `ENC(v) = trunc_8(((v / 10) << 4) | (v % 10))` on a natural number; only the final value is cut to 8 bits (R70). -/
def bcdEncode (v : Nat) : Byte := BitVec.ofNat 8 (((v / 10) <<< 4) ||| (v % 10))

/-- `DEC(b) = 10 * b[7:4] + b[3:0]`, at most 165 (R71). -/
def bcdDecode (b : Byte) : Byte := BitVec.ofNat 8 (10 * (hiNibble b).toNat + (loNibble b).toNat)

/-- ENC (R70). -/
def execEnc (v : Byte) (s : State) : Result :=
  s.respond .ok .plain (bcdEncode v.toNat) []

/-- DEC (R71). -/
def execDec (b : Byte) (s : State) : Result :=
  s.respond .ok (if bcdValid b then .plain else .notBcd) (bcdDecode b) []

end Sys2Proof.Machine
end

