-- ==== Sys2Proof/Machine/Guarded.lean ====
section
/-! DEFINITION. The guarded register operations: INIT, READ, WRITE and SETALARM (spec/43_register_access.md R100 to
R109). Each tests its arguments first (R100), then the guard (R101), then calls the transport. -/

namespace Sys2Proof.Machine

/-- INIT from its last step on: the time write, once the device and the interrupt line are set up (R102 lines 7 to 10). -/
def initWrite (record : TimeRecord) (s : State) : Result :=
  match s.memWrite Config.timeBase record.toBytes with
  | .done _ s' => (s'.setGs .ready).respond .ok .plain 0 []
  | .failed s' => (s'.setGs .failed).raise .i2cWriteError .plain
  | .hung s' => .next s'
  | .absent start => .fault (.noSuchRegister start)

/-- INIT from the interrupt-line set-up on (R102 lines 5 and 6). -/
def initIrqLine (record : TimeRecord) (s : State) : Result :=
  match s.irqSetupAnswer with
  | .fail => (s.askIrqSetup.setGs .failed).raise .deviceSetupError .irqLine
  | .ok => initWrite record (s.askIrqSetup.setIrqEn true)

/-- INIT from the device set-up on (R102 lines 3 and 4). -/
def initDevice (record : TimeRecord) (s : State) : Result :=
  match s.deviceReadyAnswer with
  | .fail => (s.askDeviceReady.setGs .failed).raise .deviceSetupError .i2cDevice
  | .ok => initIrqLine record (s.askDeviceReady.setHc true)

/-- INIT (R102). -/
def execInit (record : Option TimeRecord) (s : State) : Result :=
  match record with
  | none => s.raise .invalidParameter .plain
  | some r => if timeMask r true = 0 then initDevice r s else s.raise .invalidParameter .plain

/-- READ once its arguments and the guard have passed (R103 lines 3 to 6). -/
def readTransfer (start len : Byte) (s : State) : Result :=
  match s.memRead start.toNat len.toNat with
  | .done bytes s' => s'.respond .ok .plain 0 bytes
  | .failed s' => s'.raise .i2cReadError .plain
  | .hung s' => .next s'
  | .absent a => .fault (.noSuchRegister a)

/-- READ (R103). -/
def execRead (present : Bool) (start len : Byte) (s : State) : Result :=
  if present && rangeOk start len then
    if s.gs = .ready then readTransfer start len s else s.raise .deviceSetupError .guard
  else s.raise .invalidParameter .plain

/-- WRITE once its arguments and the guard have passed (R104 lines 3 to 6). -/
def writeTransfer (start : Byte) (bytes : List Byte) (s : State) : Result :=
  match s.memWrite start.toNat bytes with
  | .done _ s' => s'.respond .ok .plain 0 []
  | .failed s' => s'.raise .i2cWriteError .plain
  | .hung s' => .next s'
  | .absent a => .fault (.noSuchRegister a)

/-- WRITE (R104). -/
def execWrite (start : Byte) (src : Source) (s : State) : Result :=
  match src with
  | .null _ => s.raise .invalidParameter .plain
  | .bytes bs =>
    if rangeOk start src.len then
      if s.gs = .ready then writeTransfer start bs s else s.raise .deviceSetupError .guard
    else s.raise .invalidParameter .plain

/-- SETALARM from its second transfer on: the five alarm fields (R105 lines 8 to 11). -/
def alarmFieldWrite (record : AlarmRecord) (s : State) : Result :=
  match s.memWrite Config.alarmBase record.toBytes with
  | .done _ s' => s'.respond .ok .plain 0 []
  | .failed s' => s'.raise .i2cWriteError .plain
  | .hung s' => .next s'
  | .absent a => .fault (.noSuchRegister a)

/-- SETALARM once its arguments and the guard have passed: the control byte first, written whole with no read before it
(R105 lines 4 to 7). -/
def alarmControlWrite (record : AlarmRecord) (s : State) : Result :=
  match s.memWrite Config.ctrlAddr [Config.alarmCtrlByte] with
  | .done _ s' => alarmFieldWrite record s'
  | .failed s' => s'.raise .i2cWriteError .plain
  | .hung s' => .next s'
  | .absent a => .fault (.noSuchRegister a)

/-- The record of a SETALARM that passes the argument checks: present, exactly 5 bytes, every field legal
(R105 lines 1 and 2). -/
def acceptedAlarm (src : Source) : Option AlarmRecord :=
  match src with
  | .null _ => none
  | .bytes bs =>
    match alarmRecordOfBytes bs with
    | none => none
    | some record => if alarmMask record = 0 then some record else none

/-- SETALARM (R105). -/
def execSetalarm (src : Source) (s : State) : Result :=
  match acceptedAlarm src with
  | none => s.raise .invalidParameter .plain
  | some record =>
    if s.gs = .ready then alarmControlWrite record s else s.raise .deviceSetupError .guard

end Sys2Proof.Machine
end

