-- ==== Sys2Proof/Machine/Timestamp.lean ====
section
/-! DEFINITION. The month lookup and the build-timestamp parser: MONTH and PARSE (spec/41_timestamp.md R80 to R86). -/

namespace Sys2Proof.Machine

/-- The month table: the twelve abbreviations in ASCII, with their numbers (R81). -/
def monthTable : List (List Byte × Nat) :=
  [ ([0x4A, 0x61, 0x6E], 1), ([0x46, 0x65, 0x62], 2), ([0x4D, 0x61, 0x72], 3), ([0x41, 0x70, 0x72], 4),
    ([0x4D, 0x61, 0x79], 5), ([0x4A, 0x75, 0x6E], 6), ([0x4A, 0x75, 0x6C], 7), ([0x41, 0x75, 0x67], 8),
    ([0x53, 0x65, 0x70], 9), ([0x4F, 0x63, 0x74], 10), ([0x4E, 0x6F, 0x76], 11), ([0x44, 0x65, 0x63], 12) ]

/-- `month_from_name(s)`: case-sensitive exact match, 0 for unknown (R80). -/
def monthFromName (name : List Byte) : Nat :=
  match monthTable.find? (fun row => row.1 == name) with
  | some row => row.2
  | none => 0

/-- The day of a well-formed date (R82). -/
def dayOf (date : List Byte) : Nat := if dayEnd date = 5 then digit (charAt date 4) else pairAt date 4

/-- The record PARSE builds from well-formed strings (R82). -/
def parsedRecord (date time : List Byte) : TimeRecord where
  seconds := bcdEncode (pairAt time 6)
  minutes := bcdEncode (pairAt time 3)
  hours := bcdEncode (pairAt time 0)
  day := bcdEncode (dayOf date)
  weekday := 0x00
  month := bcdEncode (monthFromName (date.take 3))
  year := bcdEncode (pairAt date (date.length - 2))

/-- The record PARSE answers; on ill-formed strings the free value `PARSE_UNSPEC(DATE, TIME)` (R82 (e)). -/
def parseResult (date time : List Byte) : TimeRecord :=
  if wfDate date && wfTime time then parsedRecord date time else Config.parseUnspec date time

/-- MONTH (R80). -/
def execMonth (c0 c1 c2 : Byte) (s : State) : Result :=
  s.respond .ok .plain (BitVec.ofNat 8 (monthFromName [c0, c1, c2])) []

/-- PARSE (R82). -/
def execParse (date time : List Byte) (s : State) : Result :=
  s.respond .ok .plain 0 (parseResult date time).toBytes

end Sys2Proof.Machine
end

