-- ==== Sys2Proof/Machine/Validator.lean ====
section
/-! DEFINITION. The validators as commands: VTIME, VALARM and VRANGE (spec/42_validator.md R93, R94, R96). -/

namespace Sys2Proof.Machine

/-- The answer of VTIME and VALARM to a failing-field mask (R93, R94). -/
def State.respondMask (s : State) (mask : Byte) : Result :=
  if mask = 0 then s.respond .ok .plain 0 [] else s.respond .invalidParameter .plain mask []

/-- VTIME and VTIME.I (R93). -/
def execVtime (init : Bool) (record : TimeRecord) (s : State) : Result :=
  s.respondMask ((timeMask record init).setWidth 8)

/-- VALARM (R94). -/
def execValarm (record : AlarmRecord) (s : State) : Result :=
  s.respondMask ((alarmMask record).setWidth 8)

/-- VRANGE (R96). -/
def execVrange (start len : Byte) (s : State) : Result :=
  if rangeOk start len then s.respond .ok .plain 0 [] else s.raise .invalidParameter .plain

end Sys2Proof.Machine
end

