-- ==== Sys2Proof/Machine/Dispatch.lean ====
section
/-! DEFINITION. The meaning of every command, one arm per constructor: what it does once the block has accepted it
(whether it is accepted is asked in Machine/Fetch.lean: spec/10_state.md R17). -/

namespace Sys2Proof.Machine

def exec (i : Instr) (s : State) : Host.Outcome State Fault Refusal :=
  match i with
  | .enc v => Sys2Proof.Machine.execEnc v s
  | .dec b => Sys2Proof.Machine.execDec b s
  | .month c0 c1 c2 => Sys2Proof.Machine.execMonth c0 c1 c2 s
  | .parse date time => Sys2Proof.Machine.execParse date time s
  | .vtime init record => Sys2Proof.Machine.execVtime init record s
  | .valarm record => Sys2Proof.Machine.execValarm record s
  | .vrange start len => Sys2Proof.Machine.execVrange start len s
  | .init record => Sys2Proof.Machine.execInit record s
  | .read present start len => Sys2Proof.Machine.execRead present start len s
  | .write start src => Sys2Proof.Machine.execWrite start src s
  | .setalarm src => Sys2Proof.Machine.execSetalarm src s

end Sys2Proof.Machine
end

