-- ==== Sys2Proof/Machine/Interrupt.lean ====
section
/-! DEFINITION. The steps that are no commands: `EDGE` (spec/60_exceptions.md R127), `RUN` (R128), `CLEAR`
(10_state.md R22) and `RESET` (70_reset_and_hazards.md R140, R141). Whether one is enabled is asked where it is taken
(Machine/Fetch.lean). -/

namespace Sys2Proof.Machine

/-- `EDGE`: queues the one deferred item if a callback is registered, else the edge is lost (R127). -/
def stepEdge (s : State) : State := if s.irqEn then s.setWorkPending true else s

/-- `RUN`: the deferred read-back of all 18 registers, past the guard; the latch is set after an `ok` or `fail` answer,
not after a hang (R128, decision D33). -/
def stepRun (s : State) : Result :=
  match (s.setWorkPending false).memRead 0x00 Config.regSpace with
  | .done bytes s' => .next ((s'.emit (.snapshot bytes)).setAlarmFired true)
  | .failed s' => .next (s'.setAlarmFired true)
  | .hung s' => .next s'
  | .absent a => .fault (.noSuchRegister a)

/-- `CLEAR`: `ALARM_FIRED <- 0` and nothing else (10_state.md R22). -/
def stepClear (s : State) : State := s.setAlarmFired false

/-- `RESET`: every element of block state gets its reset value, the device registers keep theirs (R140, R141). -/
def stepReset (s : State) : State :=
  (((((s.setGs .uninitialized).setHc false).setIrqEn false).setWorkPending false).setAlarmFired false).setHung false

/-- The answer to a word that is not a command: no operand bytes, no effect, no transport call (30_encoding.md R62). -/
def takeIllegalCommand (s : State) : Result := s.raise .illegalCommand .plain

end Sys2Proof.Machine
end

