-- ==== Sys2Proof/Machine/Fetch.lean ====
section
/-! DEFINITION. Taking the next thing the outside world does: the block has no program counter and fetches nothing
(spec/10_state.md R20), so the next command is the one at the head of the agenda. Which steps are enabled: 10_state.md
R17, R22, 60_exceptions.md R127, R128. A step that is not enabled does not happen (assumption log 3). -/

namespace Sys2Proof.Machine

/-- The host presents a command: not accepted while hung, not even a pure one (R17); otherwise decoded (30_encoding.md
R65) and run, or answered `IllegalCommand` (R62), or refused because the pair is no command (R58, U15). -/
def acceptCommand (cw : CmdWord) (din : List Byte) (s : State) : Result :=
  if s.hung then .next s
  else
    match decode cw din with
    | .instr i => exec i s
    | .illegalWord => takeIllegalCommand s
    | .dinLength => .refused .dinLength

/-- The interrupt line rises: not taken while hung (60_exceptions.md R127). -/
def takeEdge (s : State) : Result := if s.hung then .next s else .next (stepEdge s)

/-- The deferred-work runner gets its turn: `RUN` if an item is queued and the block is not hung, else nothing
(60_exceptions.md R128). -/
def takeRun (s : State) : Result := if s.workPending && !s.hung then stepRun s else .next s

/-- One step of the outside world. -/
def takeEvent (e : Event) (s : State) : Result :=
  match e with
  | .command cw din => acceptCommand cw din s
  | .edge => takeEdge s
  | .run => takeRun s
  | .clear => .next (stepClear s)
  | .reset => .next (stepReset s)

/-- The next event, or, when the outside world does nothing, the deferred run that is pending (60_exceptions.md R130,
assumption log 5); with nothing pending the block stays idle. -/
def nextStep (s : State) : Result :=
  match s.agenda with
  | [] => takeRun s
  | e :: rest => takeEvent e (s.setAgenda rest)

end Sys2Proof.Machine
end

