-- ==== Sys2Proof/Machine/Step.lean ====
section
/-! DEFINITION. One step of the machine, and where the host places a command so that the next step runs it. -/

namespace Sys2Proof.Machine

/-- One step (Machine/Fetch.lean). -/
def step (s : State) : Host.Outcome State Fault Refusal := nextStep s

/-- The host presents the command of an opcode-table row next, to a block that can accept one (assumption log 12). -/
def State.withFetchWord (s : State) (nbits w : Nat) : State :=
  (s.setHung false).setAgenda (.command (tableWord nbits w) (tableDin nbits w) :: s.agenda)

end Sys2Proof.Machine
end

