-- ==== Sys2Proof/Safety.lean ====
section
/-! DEFINITION. The terms in which claims are stated: the invariant of the block, what the outside may present, what the
transport sees, and when a run is over. -/

namespace Sys2Proof

/-- A command other than INIT, READ, WRITE and SETALARM: the pure commands (R74). -/
def Instr.IsPure (i : Instr) : Prop :=
  match i with
  | .enc _ => True
  | .dec _ => True
  | .month _ _ _ => True
  | .parse _ _ => True
  | .vtime _ _ => True
  | .valarm _ => True
  | .vrange _ _ => True
  | .init _ => False
  | .read _ _ _ => False
  | .write _ _ => False
  | .setalarm _ => False

end Sys2Proof

namespace Sys2Proof.Machine

/-- What holds of every state reached from reset: the device register file is canonical (spec/20_memory.md R30), a
`Ready` guard has its handle and its callback, a callback is registered only after the handle was acquired, and an item
is queued only when a callback is registered (43_register_access.md R102, R109, 60_exceptions.md R127). -/
structure State.Inv (s : State) : Prop where
  dev_wf : s.dev.wf
  ready_hc : s.gs = .ready → s.hc = true
  ready_irqEn : s.gs = .ready → s.irqEn = true
  irqEn_hc : s.irqEn = true → s.hc = true
  pending_irqEn : s.workPending = true → s.irqEn = true

/-- A (`CW`, `DIN`) pair that is a command or an illegal word without operand bytes (30_encoding.md R58). -/
def Event.Presentable : Event → Prop
  | .command cw din => din.length = dlen cw
  | .edge => True
  | .run => True
  | .clear => True
  | .reset => True

/-- Everything the outside world will do is something the spec gives it to do. -/
def State.AgendaOk (s : State) : Prop := ∀ e ∈ s.agenda, e.Presentable

/-- A transfer that the block may issue: to bus address `0x51`, not empty, and wholly inside the register space
(20_memory.md R35, R36, R45). Outputs that are no transfers are unconstrained. -/
def Output.InBounds : Output → Prop
  | .burstRead chip start len _ => chip = 0x51 ∧ 1 ≤ len ∧ start + len ≤ 18
  | .burstWrite chip start bytes _ => chip = 0x51 ∧ 1 ≤ bytes.length ∧ start + bytes.length ≤ 18
  | .deviceReady _ => True
  | .irqSetup _ => True
  | .response _ => True
  | .snapshot _ => True

/-- The state after the one response that ends a command, everything else as before (30_encoding.md R59). -/
def State.answered (s : State) (err : ErrCode) (detail : Detail) (val : Byte) (dout : List Byte) : State :=
  s.emit (.response ⟨err, detail, val, dout⟩)

/-- Is an output a response? -/
def Output.isResponse : Output → Bool
  | .response _ => true
  | .burstRead _ _ _ _ => false
  | .burstWrite _ _ _ _ => false
  | .deviceReady _ => false
  | .irqSetup _ => false
  | .snapshot _ => false

/-- Is an output a question to the environment (a set-up question or a transport call)? -/
def Output.isCall : Output → Bool
  | .response _ => false
  | .burstRead _ _ _ _ => true
  | .burstWrite _ _ _ _ => true
  | .deviceReady _ => true
  | .irqSetup _ => true
  | .snapshot _ => false

/-- How many responses have been given. -/
def State.responses (s : State) : Nat := s.trace.countP Output.isResponse

/-- `n` steps, stopping at the first that gives no next state. -/
def steps : Nat → State → Result
  | 0, s => .next s
  | n + 1, s =>
    match step s with
    | .next t => steps n t
    | .fault f => .fault f
    | .refused r => .refused r

/-- A run is over: nothing is left to do and the block is not hung; a hung state is never final
(10_state.md R17, 93_implementation_defined.md U7). -/
def State.Finished (s : State) : Prop := s.agenda = [] ∧ s.workPending = false ∧ s.hung = false

end Sys2Proof.Machine
end

