-- ==== Sys2Proof/Certificates/Slice0/Obligations.lean ====
section
/-! DEFINITION. The statements for the provers, from the numbered rules of spec/. Each docstring names the rule; where a
clause rests on a decision of the spec (92_eei_decisions.md D<n>) or on a choice of the model (assumption log n), the
docstring says so. -/

open Sys2Proof Sys2Proof.Machine

/-! ### Words the statements use, written out from the spec and not from the model's definitions -/

/-- A tens digit and a units digit of a byte, by arithmetic: `b[7:4]` and `b[3:0]` are both at most 9 (R90). -/
def Sys2Proof.Claims.IsBcd (b : Byte) : Prop := b.toNat / 16 ≤ 9 ∧ b.toNat % 16 ≤ 9

/-- The condition of R62 for a word to be illegal, by arithmetic on the word's number. -/
def Sys2Proof.Claims.IllegalWord (w : CmdWord) : Prop :=
  let op := w.toNat / 2 ^ 28
  let p := w.toNat / 2 ^ 27 % 2
  let z := w.toNat / 2 ^ 16 % 2 ^ 11
  let a := w.toNat / 2 ^ 8 % 2 ^ 8
  let n := w.toNat % 2 ^ 8
  op = 0 ∨ 12 ≤ op ∨ z ≠ 0
    ∨ (p = 1 ∧ (op = 1 ∨ op = 2 ∨ op = 7))
    ∨ (p = 0 ∧ (op = 3 ∨ op = 4 ∨ op = 5 ∨ op = 6))
    ∨ (a ≠ 0 ∧ (op = 3 ∨ op = 4 ∨ op = 6 ∨ op = 8 ∨ op = 11))
    ∨ (2 ≤ a ∧ op = 5)
    ∨ (n ≠ 0 ∧ (op = 1 ∨ op = 2))
    ∨ (n ≠ 3 ∧ op = 3)
    ∨ (n ≠ 7 ∧ (op = 5 ∨ op = 8))
    ∨ (n ≠ 5 ∧ op = 6)

/-- The characters of a string as ASCII bytes (R55). -/
def Sys2Proof.Claims.ascii (str : String) : List Byte := str.toList.map fun c => BitVec.ofNat 8 c.toNat

/-- The twelve month abbreviations in calendar order (R81). -/
def Sys2Proof.Claims.monthNames : List (List Byte) :=
  ["Jan", "Feb", "Mar", "Apr", "May", "Jun", "Jul", "Aug", "Sep", "Oct", "Nov", "Dec"].map Claims.ascii

/-- `k` is the month number of a three-character name, 0 for a name that is not one of the twelve (R80). -/
def Sys2Proof.Claims.IsMonthOf (name : List Byte) (k : Nat) : Prop :=
  (k = 0 ∧ name ∉ Claims.monthNames) ∨ (1 ≤ k ∧ k ≤ 12 ∧ Claims.monthNames[k - 1]? = some name)

/-- The two characters at offsets `k` and `k + 1` are the decimal digits of `v` (R55, R83). -/
def Sys2Proof.Claims.IsPair (str : List Byte) (k v : Nat) : Prop :=
  v ≤ 99 ∧ str[k]? = some (BitVec.ofNat 8 (0x30 + v / 10)) ∧ str[k + 1]? = some (BitVec.ofNat 8 (0x30 + v % 10))

/-- The character at offset `k` is a decimal digit (R55). -/
def Sys2Proof.Claims.IsDigitAt (str : List Byte) (k : Nat) : Prop :=
  ∃ c, str[k]? = some c ∧ 0x30 ≤ c.toNat ∧ c.toNat ≤ 0x39

/-- What was asked of the environment between two states: exactly these questions and transfers, newest first. -/
def Sys2Proof.Claims.CallsMade (s t : State) (calls : List Output) : Prop :=
  ∃ news, t.trace = news ++ s.trace ∧ news.filter Output.isCall = calls

/-- A range wholly inside the 18 registers and not empty (R35). -/
def Sys2Proof.Claims.InRange (start len : Nat) : Prop := 1 ≤ len ∧ len ≤ 18 ∧ start + len ≤ 18

/-- The argument checks of INIT, READ, WRITE and SETALARM fail (R100, R121). -/
def Sys2Proof.Claims.BadArguments (i : Instr) : Prop :=
  match i with
  | .init none => True
  | .init (some r) => timeMask r true ≠ 0
  | .read present start len => present = false ∨ ¬ Claims.InRange start.toNat len.toNat
  | .write _ (.null _) => True
  | .write start (.bytes bs) => ¬ Claims.InRange start.toNat bs.length
  | .setalarm (.null _) => True
  | .setalarm (.bytes bs) => bs.length ≠ 5 ∨ ∀ r : AlarmRecord, bs = r.toBytes → alarmMask r ≠ 0
  | .enc _ => False
  | .dec _ => False
  | .month _ _ _ => False
  | .parse _ _ => False
  | .vtime _ _ => False
  | .valarm _ => False
  | .vrange _ _ => False

/-! ### Encoding -/

/-- Decoding an encoded well-formed command gives it back, for every command and every operand value
(30_encoding.md R56 to R58, R63, R65). -/
def Obligations.DecodeOfEncodeGivesCommand : Prop :=
  ∀ i : Instr, i.WellFormed = true → decode (encode i).1 (encode i).2 = .instr i

/-- Every word and operand bytes that decode to a command are that command's own encoding, and the command is
well-formed: no bit of a command is dropped (30_encoding.md R57, R65). -/
def Obligations.DecodedWordsEncodeBack : Prop :=
  ∀ (w : CmdWord) (din : List Byte) (i : Instr), decode w din = .instr i →
    encode i = (w, din) ∧ i.WellFormed = true

/-- R57: the opcode map. A word is the command of a row exactly when `w & mask = match`, and at most one row matches. -/
def Obligations.OpcodeMapMatchesByMask : Prop :=
  (∀ w : CmdWord,
      (opOf w = some .enc ↔ w &&& 0xFFFF00FF = 0x10000000)
        ∧ (opOf w = some .dec ↔ w &&& 0xFFFF00FF = 0x20000000)
        ∧ (opOf w = some .month ↔ w &&& 0xFFFFFFFF = 0x38000003)
        ∧ (opOf w = some .parse ↔ w &&& 0xFFFFFF00 = 0x48000000)
        ∧ (opOf w = some .vtime ↔ w &&& 0xFFFFFEFF = 0x58000007)
        ∧ (opOf w = some .valarm ↔ w &&& 0xFFFFFFFF = 0x68000005)
        ∧ (opOf w = some .vrange ↔ w &&& 0xFFFF0000 = 0x70000000)
        ∧ (opOf w = some .init ↔ w &&& 0xF7FFFFFF = 0x80000007)
        ∧ (opOf w = some .read ↔ w &&& 0xF7FF0000 = 0x90000000)
        ∧ (opOf w = some .write ↔ w &&& 0xF7FF0000 = 0xA0000000)
        ∧ (opOf w = some .setalarm ↔ w &&& 0xF7FFFF00 = 0xB0000000))
    ∧ (∀ (w : CmdWord) (r r' : Row), r ∈ opcodeRows → r' ∈ opcodeRows → w &&& r.mask = r.pattern →
        w &&& r'.mask = r'.pattern → r = r')

/-- R62, whole: the illegal words are exactly those of the rule's list; an illegal word is answered `IllegalCommand`
(`RSP = 0xF000`) with no effect, and every other word, with as many operand bytes as it asks for, is a command. -/
def Obligations.IllegalWordsAreAnswered : Prop :=
  (∀ (s : State) (w : CmdWord) (rest : List Event), Claims.IllegalWord w → s.hung = false →
      s.agenda = .command w [] :: rest →
        step s = .next ((s.setAgenda rest).answered .illegalCommand .plain 0 []))
    ∧ (∀ (w : CmdWord) (din : List Byte), ¬ Claims.IllegalWord w → din.length = dlen w →
        ∃ i, decode w din = .instr i)
    ∧ (∀ w : CmdWord, Claims.IllegalWord w → dlen w = 0)
    ∧ Response.word ⟨.illegalCommand, .plain, 0, []⟩ = 0xF000
    ∧ Claims.IllegalWord 0x00000000 ∧ Claims.IllegalWord 0xFFFFFFFF

/-- The lengths of R58 and what the model does with a pair of another length (refusal `dinLength`, U15, assumption
log 8): it is refused, and a pair of the right length never is. -/
def Obligations.OperandByteCounts : Prop :=
  (∀ (w : CmdWord) (din : List Byte), decode w din = .dinLength ↔ din.length ≠ dlen w)
    ∧ (∀ (s : State) (w : CmdWord) (din : List Byte) (rest : List Event), s.hung = false →
        s.agenda = .command w din :: rest → din.length ≠ dlen w → step s = .refused .dinLength)
    ∧ (∀ v n a : Byte, dlen (packWord 1 false v 0) = 0 ∧ dlen (packWord 2 false v 0) = 0
        ∧ dlen (packWord 3 true 0 3) = 3 ∧ dlen (packWord 4 true 0 n) = n.toNat + 8
        ∧ dlen (packWord 5 true 0 7) = 7 ∧ dlen (packWord 5 true 1 7) = 7 ∧ dlen (packWord 6 true 0 5) = 5
        ∧ dlen (packWord 7 false a n) = 0 ∧ dlen (packWord 8 true 0 7) = 7 ∧ dlen (packWord 8 false 0 7) = 0
        ∧ (∀ p, dlen (packWord 9 p a n) = 0) ∧ dlen (packWord 10 true a n) = n.toNat
        ∧ dlen (packWord 10 false a n) = 0 ∧ dlen (packWord 11 true 0 n) = n.toNat
        ∧ dlen (packWord 11 false 0 n) = 0)

/-- A few words of 95_test_vectors.md and R64, written out, and the commands they stand for. -/
def Obligations.KnownWordsDecode : Prop :=
  decode 0x10000C00 [] = .instr (.enc 12)
    ∧ decode 0x20005900 [] = .instr (.dec 0x59)
    ∧ decode 0x38000003 [0x44, 0x65, 0x63] = .instr (.month 0x44 0x65 0x63)
    ∧ decode 0x58000107 [0x00, 0x00, 0x12, 0x15, 0x00, 0x07, 0x23]
        = .instr (.vtime true ⟨0x00, 0x00, 0x12, 0x15, 0x00, 0x07, 0x23⟩)
    ∧ decode 0x68000005 [0x30, 0x45, 0x07, 0x15, 0x00] = .instr (.valarm ⟨0x30, 0x45, 0x07, 0x15, 0x00⟩)
    ∧ decode 0x7000FA0A [] = .instr (.vrange 250 10)
    ∧ decode 0x80000007 [] = .instr (.init none)
    ∧ decode 0x98000407 [] = .instr rdtime ∧ decode 0x98000B05 [] = .instr rdalarm
    ∧ decode 0x98000012 [] = .instr rdall ∧ decode 0x98000101 [] = .instr rdctrl
    ∧ decode 0xA8000103 [0x34, 0x56, 0x78] = .instr (.write 0x01 (.bytes [0x34, 0x56, 0x78]))
    ∧ decode 0xB0000005 [] = .instr (.setalarm (.null 5))

/-- The response word (30_encoding.md R59 to R61): the places of `ERR`, `DETAIL` and `VAL` in `RSP` (R59, decision D2), the
numbers of the result codes and that 0x5 to 0xE never occur (R60, decision D8), the numbers of the sub-codes: 1 the I2C
device, 2 the interrupt line, 3 the guard, 1 also DEC's byte that is not BCD, else 0 (R61, decision D9). -/
def Obligations.ResultCodesInResponseWord : Prop :=
  ∀ r : Response,
    r.word.toNat = r.word.toNat / 2 ^ 12 * 2 ^ 12 + r.detail.code.toNat * 2 ^ 8 + r.val.toNat
      ∧ (r.err = .ok ↔ r.word.toNat / 2 ^ 12 = 0x0)
      ∧ (r.err = .invalidParameter ↔ r.word.toNat / 2 ^ 12 = 0x1)
      ∧ (r.err = .deviceSetupError ↔ r.word.toNat / 2 ^ 12 = 0x2)
      ∧ (r.err = .i2cWriteError ↔ r.word.toNat / 2 ^ 12 = 0x3)
      ∧ (r.err = .i2cReadError ↔ r.word.toNat / 2 ^ 12 = 0x4)
      ∧ (r.err = .illegalCommand ↔ r.word.toNat / 2 ^ 12 = 0xF)
      ∧ ¬ (0x5 ≤ r.word.toNat / 2 ^ 12 ∧ r.word.toNat / 2 ^ 12 ≤ 0xE)
      ∧ r.word.toNat % 2 ^ 8 = r.val.toNat
      ∧ (r.detail = .plain → r.word.toNat / 2 ^ 8 % 2 ^ 4 = 0x0)
      ∧ (r.detail = .i2cDevice → r.word.toNat / 2 ^ 8 % 2 ^ 4 = 0x1)
      ∧ (r.detail = .irqLine → r.word.toNat / 2 ^ 8 % 2 ^ 4 = 0x2)
      ∧ (r.detail = .guard → r.word.toNat / 2 ^ 8 % 2 ^ 4 = 0x3)
      ∧ (r.detail = .notBcd → r.word.toNat / 2 ^ 8 % 2 ^ 4 = 0x1)

/-! ### The step -/

/-- A step runs the decoded command: the command at the head of the agenda, taken off it (10_state.md R20: commands run
in host order). The agenda is the model's own (assumption log 3). -/
def Obligations.StepRunsDecodedCommand : Prop :=
  ∀ (s : State) (w : CmdWord) (din : List Byte) (rest : List Event) (i : Instr),
    s.hung = false → s.agenda = .command w din :: rest → decode w din = .instr i →
      step s = exec i (s.setAgenda rest)

/-- The very next step runs a placed opcode-table word, on the same state with `HUNG` cleared (assumption log 12). -/
def Obligations.PlacedWordRunsNext : Prop :=
  ∀ (s : State) (nbits w : Nat) (i : Instr), decodeTableWord nbits w = some i →
    step (s.withFetchWord nbits w) = exec i (s.setHung false)

/-- R23: what the block holds after reset; each device register holds its byte of the open `DEV_RESET`, and there are no
others. -/
def Obligations.ResetValues : Prop :=
  State.reset.gs = .uninitialized ∧ State.reset.statusGs = 0 ∧ State.reset.hc = false ∧ State.reset.irqEn = false
    ∧ State.reset.workPending = false ∧ State.reset.alarmFired = false ∧ State.reset.hung = false
    ∧ (∀ a, a < 18 → State.reset.dev.read a = some (Config.devReset a))
    ∧ (∀ a, 18 ≤ a → State.reset.dev.read a = none)

/-- `RESET` may occur at any time, also during a hang, and keeps the device registers (70_reset_and_hazards.md R140); the
block's elements get the values of 10_state.md R23 and nothing else is done (R141, which the spec derives); nothing is
answered. That the environment and the trace, the model's own fields, are kept is the model's choice (assumption log 16,
log 6), and so is the agenda (log 3). -/
def Obligations.ResetKeepsDevice : Prop :=
  ∀ (s : State) (rest : List Event), s.agenda = .reset :: rest →
    ∃ t, step s = .next t ∧ t.gs = .uninitialized ∧ t.hc = false ∧ t.irqEn = false ∧ t.workPending = false
      ∧ t.alarmFired = false ∧ t.hung = false ∧ (∀ a, t.dev.read a = s.dev.read a)
      ∧ t.trace = s.trace ∧ t.env = s.env ∧ t.agenda = rest

/-- The invariant holds at reset (10_state.md R23, 20_memory.md R30). -/
def Obligations.ResetMeetsInvariant : Prop := State.reset.Inv

/-- Every step keeps the invariant: the register file stays canonical, a `Ready` guard has its handle and callback, a
callback implies a handle, a queued item implies a callback (43_register_access.md R102, R109, 60_exceptions.md R127). -/
def Obligations.EveryStepKeepsInvariant : Prop :=
  ∀ s t : State, s.Inv → step s = .next t → t.Inv

/-- The machine never stops: from a state that meets the invariant, with only presentable events ahead, every step gives
a next state of the same kind; no fault and no refusal can occur, since no transfer leaves the 18 registers (20_memory.md
R35, R45). That a hang is such a next state (assumption log 11), that an event which is not enabled gives one (log 3), and
that an idle step does (log 5), is the model's reading and choice. -/
def Obligations.MachineNeverStops : Prop :=
  ∀ s : State, s.Inv → s.AgendaOk → ∃ t, step s = .next t ∧ t.Inv ∧ t.AgendaOk

/-- The block never issues a transfer that is empty, that passes `0x11`, or that goes to another bus address than `0x51`
(20_memory.md R35, R36, R45). -/
def Obligations.TransfersStayInRegisterSpace : Prop :=
  ∀ s t : State, (∀ o ∈ s.trace, o.InBounds) → step s = .next t → ∀ o ∈ t.trace, o.InBounds

/-! ### Hang -/

/-- While hung no command, not even a pure one, no `EDGE` and no deferred run is taken; `CLEAR` and `RESET` still act; a
hung state is never finished (10_state.md R17, R22, U7, C11). That what is not taken is dropped from the agenda with no
other effect (assumption log 3), and that a hung step with an empty agenda leaves the state as it is (log 5, log 11), is
the model's choice. -/
def Obligations.HungBlockTakesOnlyClearAndReset : Prop :=
  ∀ (s : State) (rest : List Event), s.hung = true →
    (∀ w din, s.agenda = .command w din :: rest → step s = .next (s.setAgenda rest))
      ∧ (s.agenda = .edge :: rest → step s = .next (s.setAgenda rest))
      ∧ (s.agenda = .run :: rest → step s = .next (s.setAgenda rest))
      ∧ (s.agenda = [] → step s = .next s)
      ∧ (s.agenda = .clear :: rest → ∃ t, step s = .next t ∧ t.alarmFired = false ∧ t.hung = true)
      ∧ (s.agenda = .reset :: rest → ∃ t, step s = .next t ∧ t.hung = false)
      ∧ ¬ s.Finished

/-- A transfer that answers `hang` sets `HUNG`, the command never responds (no response leaves the block), what it did
before stands (INIT's `HC` and `IRQ_EN`, SETALARM's control byte), the hung call changes no register; afterwards no command
and no deferred run is taken (43_register_access.md R108). That one presented then is dropped from the agenda with no other
effect is the model's choice (assumption log 3). -/
def Obligations.HungTransferNeverResponds : Prop :=
  ∀ s : State, s.dev.wf →
    (∀ start len : Byte, Claims.InRange start.toNat len.toNat → s.gs = .ready → s.transferAnswer = .hang →
      ∃ t, exec (.read true start len) s = .next t ∧ t.hung = true ∧ t.responses = s.responses ∧ t.dev = s.dev
        ∧ t.gs = s.gs)
      ∧ (∀ (start : Byte) (bs : List Byte), Claims.InRange start.toNat bs.length → s.gs = .ready →
        s.transferAnswer = .hang →
        ∃ t, exec (.write start (.bytes bs)) s = .next t ∧ t.hung = true ∧ t.responses = s.responses
          ∧ t.dev = s.dev ∧ t.gs = s.gs)
      ∧ (∀ r : TimeRecord, timeMask r true = 0 → s.deviceReadyAnswer = .ok → s.askDeviceReady.irqSetupAnswer = .ok →
        s.askDeviceReady.askIrqSetup.transferAnswer = .hang →
        ∃ t, exec (.init (some r)) s = .next t ∧ t.hung = true ∧ t.responses = s.responses ∧ t.dev = s.dev
          ∧ t.gs = s.gs ∧ t.hc = true ∧ t.irqEn = true)
      ∧ (∀ r : AlarmRecord, alarmMask r = 0 → s.gs = .ready → s.transferAnswer = .hang →
        ∃ t, exec (.setalarm (.bytes r.toBytes)) s = .next t ∧ t.hung = true ∧ t.responses = s.responses
          ∧ t.dev = s.dev ∧ t.gs = s.gs)
      ∧ (∀ r : AlarmRecord, alarmMask r = 0 → s.gs = .ready → s.transferAnswer = .ok →
        (s.issueWrite 0x01 [0x80]).transferAnswer = .hang →
        ∃ t, exec (.setalarm (.bytes r.toBytes)) s = .next t ∧ t.hung = true ∧ t.responses = s.responses
          ∧ t.dev.read 0x01 = some 0x80 ∧ (∀ a, a ≠ 0x01 → t.dev.read a = s.dev.read a) ∧ t.gs = s.gs)
      ∧ (∀ (rest : List Event) (w : CmdWord) (din : List Byte), s.hung = true →
        s.agenda = .command w din :: rest ∨ s.agenda = .run :: rest → step s = .next (s.setAgenda rest))

/-! ### Codec -/

/-- R70: ENC answers `trunc_8(((v / 10) << 4) | (v % 10))` and nothing else, for every byte and in every state; the corner
cases of the rule. -/
def Obligations.EncAnswersTruncatedBcd : Prop :=
  ∀ (v : Byte) (s : State), ∃ b : Byte,
    exec (.enc v) s = .next (s.answered .ok .plain b [])
      ∧ b.toNat = ((v.toNat / 10) * 16 + v.toNat % 10) % 256
      ∧ (v.toNat ≤ 99 → Claims.IsBcd b)
      ∧ (100 ≤ v.toNat → v.toNat ≤ 159 → 0xA ≤ b.toNat / 16)
      ∧ b.toNat / 16 = v.toNat / 10 % 16 ∧ b.toNat % 16 = v.toNat % 10
      ∧ (encodeWord (.enc v)).toNat = 0x10000000 + v.toNat * 0x100

/-- The laws of R73 (the spec marks them as derived from R70 and R71): the round trips of the codec. -/
def Obligations.CodecRoundTrips : Prop :=
  (∀ v : Byte, v.toNat ≤ 99 → bcdValid (bcdEncode v.toNat) = true ∧ bcdDecode (bcdEncode v.toNat) = v)
    ∧ (∀ b : Byte, bcdValid b = true → (bcdDecode b).toNat ≤ 99 ∧ bcdEncode (bcdDecode b).toNat = b)
    ∧ (∀ v : Byte, 100 ≤ v.toNat → v.toNat ≤ 159 →
        bcdDecode (bcdEncode v.toNat) = v ∧ bcdValid (bcdEncode v.toNat) = false)
    ∧ (∀ v : Byte, 160 ≤ v.toNat → (bcdDecode (bcdEncode v.toNat)).toNat = v.toNat - 160)
    ∧ (∀ a b : Byte, bcdValid a = true → bcdValid b = true →
        (a.toNat ≤ b.toNat ↔ (bcdDecode a).toNat ≤ (bcdDecode b).toNat))

/-- R71: DEC answers `10 * b[7:4] + b[3:0]` with `DETAIL` 1 exactly when the byte is not valid BCD, never an error. Its
values on invalid bytes and the sub-code are decision D23 of the spec. -/
def Obligations.DecAnswersDigitSum : Prop :=
  ∀ (b : Byte) (s : State), ∃ (v : Byte) (d : Detail),
    exec (.dec b) s = .next (s.answered .ok d v [])
      ∧ v.toNat = 10 * (b.toNat / 16) + b.toNat % 16 ∧ v.toNat ≤ 165
      ∧ (Claims.IsBcd b → d.code = 0) ∧ (¬ Claims.IsBcd b → d.code = 1)
      ∧ (encodeWord (.dec b)).toNat = 0x20000000 + b.toNat * 0x100

/-- R90: `bcd_valid` is the digit-pair test, equal to the source's masked test, and holds of exactly 100 bytes. -/
def Obligations.BcdValidIsTheDigitPairTest : Prop :=
  (∀ b : Byte, (bcdValid b = true ↔ Claims.IsBcd b)
      ∧ (bcdValid b = true ↔ (b &&& 0xF0) ≤ 0x90 ∧ (b &&& 0x0F) ≤ 0x09))
    ∧ ((List.range 256).countP fun n => bcdValid (BitVec.ofNat 8 n)) = 100

/-! ### Month and build timestamp -/

/-- R80 (with the names of R81): MONTH answers the month number of the three characters, 0 for any other three bytes,
never an error. -/
def Obligations.MonthAnswersItsNumber : Prop :=
  ∀ (c0 c1 c2 : Byte) (s : State), ∃ k, Claims.IsMonthOf [c0, c1, c2] k
    ∧ exec (.month c0 c1 c2) s = .next (s.answered .ok .plain (BitVec.ofNat 8 k) [])
    ∧ encode (.month c0 c1 c2) = (0x38000003, [c0, c1, c2])

/-- R84: the well-formed date and time strings, in terms of their characters; the domain is decision D21 of the spec. -/
def Obligations.WellFormedStrings : Prop :=
  (∀ date : List Byte, wfDate date = true ↔
      8 ≤ date.length ∧ Claims.IsDigitAt date 4
        ∧ (date[5]? = some 0x20 ∨ (9 ≤ date.length ∧ Claims.IsDigitAt date 5 ∧ date[6]? = some 0x20))
        ∧ (if date[5]? = some 0x20 then 5 else 6) < date.length - 2
        ∧ Claims.IsDigitAt date (date.length - 2) ∧ Claims.IsDigitAt date (date.length - 1))
    ∧ (∀ time : List Byte, wfTime time = true ↔
      Claims.IsDigitAt time 0 ∧ Claims.IsDigitAt time 1 ∧ Claims.IsDigitAt time 3 ∧ Claims.IsDigitAt time 4
        ∧ Claims.IsDigitAt time 6 ∧ Claims.IsDigitAt time 7)

/-- PARSE on well-formed strings (41_timestamp.md R82): the seven bytes are the encoded numbers that the characters at
the rule's offsets spell, seconds first, weekday 0, each of them a valid BCD byte (R86, which the spec marks as derived).
The domain of the rule is decision D21 of the spec. -/
def Obligations.ParseBuildsTheRecord : Prop :=
  ∀ (date time : List Byte) (s : State), wfDate date = true → wfTime time = true →
    ∃ ss mm hh day mon yy : Nat,
      exec (.parse date time) s = .next (s.answered .ok .plain 0
          [bcdEncode ss, bcdEncode mm, bcdEncode hh, bcdEncode day, 0x00, bcdEncode mon, bcdEncode yy])
        ∧ Claims.IsPair time 6 ss ∧ Claims.IsPair time 3 mm ∧ Claims.IsPair time 0 hh
        ∧ (if date[5]? = some 0x20 then day ≤ 9 ∧ date[4]? = some (BitVec.ofNat 8 (0x30 + day))
            else Claims.IsPair date 4 day)
        ∧ Claims.IsMonthOf (date.take 3) mon ∧ Claims.IsPair date (date.length - 2) yy
        ∧ (∀ n ∈ [ss, mm, hh, day, mon, yy], Claims.IsBcd (bcdEncode n))

/-- PARSE on ill-formed strings (41_timestamp.md R82 (e), decision D20): still `OK`, seven bytes that are the open
function of the two strings alone. Holds whatever that function is. -/
def Obligations.ParseOfIllFormedIsAFunction : Prop :=
  ∀ (date time : List Byte) (s : State), ¬ (wfDate date = true ∧ wfTime time = true) →
    exec (.parse date time) s = .next (s.answered .ok .plain 0 (Config.parseUnspec date time).toBytes)
      ∧ (Config.parseUnspec date time).toBytes.length = 7

/-- A pure command gives one and the same response in every state, writes no state element, asks the environment nothing,
never hangs, and even it is not accepted while `HUNG = 1` (40_bcd_codec.md R74). That a command presented while hung is
dropped from the agenda with no other effect is the model's choice (assumption log 3). -/
def Obligations.PureCommandsIgnoreState : Prop :=
  (∀ i : Instr, i.IsPure → ∃ r : Response, ∀ s : State, exec i s = .next (s.emit (.response r)))
    ∧ (∀ (s : State) (w : CmdWord) (din : List Byte) (rest : List Event), s.hung = true →
        s.agenda = .command w din :: rest → step s = .next (s.setAgenda rest))

/-! ### Validators -/

/-- R91: the bits of `time_mask`, each by its own condition on the raw byte, and how many bytes are legal per field. -/
def Obligations.TimeMaskMarksIllegalFields : Prop :=
  (∀ (r : TimeRecord) (init : Bool),
      ((timeMask r init).getLsbD 0 = false ↔ Claims.IsBcd r.seconds ∧ r.seconds.toNat ≤ 0x59)
        ∧ ((timeMask r init).getLsbD 1 = false ↔ Claims.IsBcd r.minutes ∧ r.minutes.toNat ≤ 0x59)
        ∧ ((timeMask r init).getLsbD 2 = false ↔ Claims.IsBcd r.hours ∧ r.hours.toNat ≤ 0x23)
        ∧ ((timeMask r init).getLsbD 3 = false ↔ Claims.IsBcd r.day ∧ 0x01 ≤ r.day.toNat ∧ r.day.toNat ≤ 0x31)
        ∧ ((timeMask r init).getLsbD 4 = false ↔ r.weekday = 0x00)
        ∧ ((timeMask r init).getLsbD 5 = false ↔
            Claims.IsBcd r.month ∧ 0x01 ≤ r.month.toNat ∧ r.month.toNat ≤ 0x12)
        ∧ ((timeMask r init).getLsbD 6 = false ↔ Claims.IsBcd r.year ∧ (init = false ∨ r.year ≠ 0x00)))
    ∧ ((List.range 256).countP fun n => secOk (BitVec.ofNat 8 n)) = 60
    ∧ ((List.range 256).countP fun n => hourOk (BitVec.ofNat 8 n)) = 24
    ∧ ((List.range 256).countP fun n => dayOk (BitVec.ofNat 8 n)) = 31
    ∧ ((List.range 256).countP fun n => weekdayOk (BitVec.ofNat 8 n)) = 1
    ∧ ((List.range 256).countP fun n => monthOk (BitVec.ofNat 8 n)) = 12
    ∧ ((List.range 256).countP fun n => yearOk false (BitVec.ofNat 8 n)) = 100
    ∧ ((List.range 256).countP fun n => yearOk true (BitVec.ofNat 8 n)) = 99

/-- R92: the bits of `alarm_mask`, and that it is the low five bits of `time_mask` of the record with `0x01, 0x01`
appended. -/
def Obligations.AlarmMaskMarksIllegalFields : Prop :=
  ∀ a : AlarmRecord,
    ((alarmMask a).getLsbD 0 = false ↔ Claims.IsBcd a.seconds ∧ a.seconds.toNat ≤ 0x59)
      ∧ ((alarmMask a).getLsbD 1 = false ↔ Claims.IsBcd a.minutes ∧ a.minutes.toNat ≤ 0x59)
      ∧ ((alarmMask a).getLsbD 2 = false ↔ Claims.IsBcd a.hours ∧ a.hours.toNat ≤ 0x23)
      ∧ ((alarmMask a).getLsbD 3 = false ↔ Claims.IsBcd a.day ∧ 0x01 ≤ a.day.toNat ∧ a.day.toNat ≤ 0x31)
      ∧ ((alarmMask a).getLsbD 4 = false ↔ a.weekday = 0x00)
      ∧ alarmMask a
        = (timeMask ⟨a.seconds, a.minutes, a.hours, a.day, a.weekday, 0x01, 0x01⟩ false).extractLsb' 0 5

/-- R93: VTIME and VTIME.I answer `OK` when the mask is 0, else `InvalidParameter` with the mask in `VAL`, bit 7 zero. -/
def Obligations.VtimeAnswersItsMask : Prop :=
  ∀ (init : Bool) (r : TimeRecord) (s : State),
    (timeMask r init = 0 → exec (.vtime init r) s = .next (s.answered .ok .plain 0 []))
      ∧ (timeMask r init ≠ 0 → ∃ v : Byte, v.toNat = (timeMask r init).toNat ∧ v.getLsbD 7 = false
        ∧ exec (.vtime init r) s = .next (s.answered .invalidParameter .plain v []))
      ∧ encode (.vtime init r) = (if init then 0x58000107 else 0x58000007, r.toBytes)

/-- R94: VALARM answers `OK` when the mask is 0, else `InvalidParameter` with the mask in `VAL`, bits 7:5 zero. -/
def Obligations.ValarmAnswersItsMask : Prop :=
  ∀ (a : AlarmRecord) (s : State),
    (alarmMask a = 0 → exec (.valarm a) s = .next (s.answered .ok .plain 0 []))
      ∧ (alarmMask a ≠ 0 → ∃ v : Byte, v.toNat = (alarmMask a).toNat ∧ v.toNat < 32
        ∧ exec (.valarm a) s = .next (s.answered .invalidParameter .plain v []))
      ∧ encode (.valarm a) = (0x68000005, a.toBytes)

/-- R35 and R96: the bounds check (non-empty, inside the 18 registers, the sum exact and never reduced modulo 256), and
that VRANGE answers `OK` exactly for such a range; the accepted pairs number 171. -/
def Obligations.VrangeAnswersBounds : Prop :=
  (∀ (start len : Byte) (s : State),
      (rangeOk start len = true ↔ Claims.InRange start.toNat len.toNat)
        ∧ (Claims.InRange start.toNat len.toNat → exec (.vrange start len) s = .next (s.answered .ok .plain 0 []))
        ∧ (¬ Claims.InRange start.toNat len.toNat →
          exec (.vrange start len) s = .next (s.answered .invalidParameter .plain 0 []))
        ∧ (encodeWord (.vrange start len)).toNat = 0x70000000 + start.toNat * 0x100 + len.toNat)
    ∧ rangeOk 0 18 = true ∧ rangeOk 0x11 1 = true ∧ (∀ start len : Byte, 18 ≤ start.toNat → rangeOk start len = false)
    ∧ rangeOk 250 10 = false
    ∧ ((List.range 256).map fun n =>
        (List.range 256).countP fun a => rangeOk (BitVec.ofNat 8 a) (BitVec.ofNat 8 n)).sum = 171

/-! ### The transport and the guarded operations -/

/-- R36: a transfer to bus address `0x51` has exactly the answers `ok` (the whole transfer took place), `fail` (nothing
was transferred, no byte is returned, `DEV` unchanged) and `hang` (`HUNG` set), each drawn from the environment. -/
def Obligations.TransportHasThreeAnswers : Prop :=
  ∀ (s : State) (start : Nat) (bytes : List Byte) (len : Nat), s.dev.wf → start + bytes.length ≤ 18 →
    start + len ≤ 18 →
    (s.transferAnswer = .ok → ∃ t, s.memWrite start bytes = .done () t ∧ t.hung = s.hung
        ∧ (∀ i, i < bytes.length → t.dev.read (start + i) = bytes[i]?)
        ∧ (∀ a, a < start ∨ start + bytes.length ≤ a → t.dev.read a = s.dev.read a)
        ∧ t.trace = .burstWrite 0x51 start bytes .ok :: s.trace)
    ∧ (s.transferAnswer = .ok → ∃ t got, s.memRead start len = .done got t ∧ t.hung = s.hung ∧ t.dev = s.dev
        ∧ got.length = len ∧ (∀ i, i < len → got[i]? = s.dev.read (start + i))
        ∧ t.trace = .burstRead 0x51 start len .ok :: s.trace)
    ∧ (s.transferAnswer = .fail →
        (∃ t, s.memWrite start bytes = .failed t ∧ t.dev = s.dev ∧ t.hung = s.hung
          ∧ t.trace = .burstWrite 0x51 start bytes .fail :: s.trace)
        ∧ ∃ t, s.memRead start len = .failed t ∧ t.dev = s.dev ∧ t.hung = s.hung
          ∧ t.trace = .burstRead 0x51 start len .fail :: s.trace)
    ∧ (s.transferAnswer = .hang →
        (∃ t, s.memWrite start bytes = .hung t ∧ t.dev = s.dev ∧ t.hung = true
          ∧ t.trace = .burstWrite 0x51 start bytes .hang :: s.trace)
        ∧ ∃ t, s.memRead start len = .hung t ∧ t.dev = s.dev ∧ t.hung = true
          ∧ t.trace = .burstRead 0x51 start len .hang :: s.trace)
    ∧ (∀ a rest, s.env.transfer = a :: rest →
        s.transferAnswer = a ∧ (s.issueRead start len).env.transfer = rest
          ∧ (s.issueWrite start bytes).env.transfer = rest)

/-- R100: when an argument check of INIT, READ, WRITE or SETALARM fails the answer is `InvalidParameter` in every state,
and nothing else happens: no state read or written, nothing asked of the environment. -/
def Obligations.BadArgumentsReachNothing : Prop :=
  ∀ (i : Instr) (s : State), i.WellFormed = true → Claims.BadArguments i →
    exec i s = .next (s.answered .invalidParameter .plain 0 [])

/-- R101: READ, WRITE and SETALARM with good arguments, when the guard is not `Ready`, are answered `DeviceSetupError`
with `DETAIL` 3 and change nothing (the error is decision D15 of the spec); INIT is accepted in every guard state (it
asks the environment for the device, whatever `GS` is, D18); and only INIT changes `GS` (D16). -/
def Obligations.GuardGatesRegisterAccess : Prop :=
  (∀ s : State, s.gs ≠ .ready →
      (∀ start len : Byte, Claims.InRange start.toNat len.toNat →
        exec (.read true start len) s = .next (s.answered .deviceSetupError .guard 0 []))
        ∧ (∀ (start : Byte) (bs : List Byte), Claims.InRange start.toNat bs.length →
          exec (.write start (.bytes bs)) s = .next (s.answered .deviceSetupError .guard 0 []))
        ∧ (∀ r : AlarmRecord, alarmMask r = 0 →
          exec (.setalarm (.bytes r.toBytes)) s = .next (s.answered .deviceSetupError .guard 0 [])))
    ∧ Detail.guard.code = 3
    ∧ (∀ (r : TimeRecord) (s : State), s.dev.wf → timeMask r true = 0 →
        ∃ t, exec (.init (some r)) s = .next t ∧ Output.deviceReady s.deviceReadyAnswer ∈ t.trace)
    ∧ (∀ (i : Instr) (s t : State), (∀ record, i ≠ .init record) → exec i s = .next t → t.gs = s.gs)

/-- INIT succeeds (43_register_access.md R102 lines 3 to 8): with a legal record, the device ready, the line set up and
the time write `ok`, from every guard state: `Ready`, handle and callback set, the seven bytes in the time registers,
every other register and element as before, and the three questions asked in that order. -/
def Obligations.InitSucceeds : Prop :=
  ∀ (r : TimeRecord) (s : State), s.dev.wf → timeMask r true = 0 → s.deviceReadyAnswer = .ok →
    s.askDeviceReady.irqSetupAnswer = .ok → s.askDeviceReady.askIrqSetup.transferAnswer = .ok →
      ∃ t, exec (.init (some r)) s = .next t
        ∧ t.gs = .ready ∧ t.hc = true ∧ t.irqEn = true
        ∧ (∀ i, i < 7 → t.dev.read (0x04 + i) = r.toBytes[i]?)
        ∧ (∀ a, a < 0x04 ∨ 0x0A < a → t.dev.read a = s.dev.read a)
        ∧ t.workPending = s.workPending ∧ t.alarmFired = s.alarmFired ∧ t.hung = s.hung ∧ t.agenda = s.agenda
        ∧ t.trace = .response ⟨.ok, .plain, 0, []⟩ :: .burstWrite 0x51 0x04 r.toBytes .ok :: .irqSetup .ok
            :: .deviceReady .ok :: s.trace

/-- INIT fails (43_register_access.md R102 lines 3, 5 and 9): each failure has its own response, leaves the guard
`Failed`, undoes nothing that was set before it, and asks nothing after it; the order is decision D19 of the spec. -/
def Obligations.InitFailuresAreDistinct : Prop :=
  ∀ (r : TimeRecord) (s : State), timeMask r true = 0 →
    (s.deviceReadyAnswer = .fail → ∃ t, exec (.init (some r)) s = .next t
      ∧ t.gs = .failed ∧ t.hc = s.hc ∧ t.irqEn = s.irqEn ∧ t.dev = s.dev ∧ t.hung = s.hung
      ∧ t.alarmFired = s.alarmFired ∧ t.workPending = s.workPending
      ∧ t.trace = .response ⟨.deviceSetupError, .i2cDevice, 0, []⟩ :: .deviceReady .fail :: s.trace)
    ∧ (s.deviceReadyAnswer = .ok → s.askDeviceReady.irqSetupAnswer = .fail →
      ∃ t, exec (.init (some r)) s = .next t
      ∧ t.gs = .failed ∧ t.hc = true ∧ t.irqEn = s.irqEn ∧ t.dev = s.dev ∧ t.hung = s.hung
      ∧ t.alarmFired = s.alarmFired ∧ t.workPending = s.workPending
      ∧ t.trace = .response ⟨.deviceSetupError, .irqLine, 0, []⟩ :: .irqSetup .fail :: .deviceReady .ok :: s.trace)
    ∧ (s.deviceReadyAnswer = .ok → s.askDeviceReady.irqSetupAnswer = .ok →
      s.askDeviceReady.askIrqSetup.transferAnswer = .fail → ∃ t, exec (.init (some r)) s = .next t
      ∧ t.gs = .failed ∧ t.hc = true ∧ t.irqEn = true ∧ t.dev = s.dev ∧ t.hung = s.hung
      ∧ t.alarmFired = s.alarmFired ∧ t.workPending = s.workPending
      ∧ t.trace = .response ⟨.i2cWriteError, .plain, 0, []⟩ :: .burstWrite 0x51 0x04 r.toBytes .fail
          :: .irqSetup .ok :: .deviceReady .ok :: s.trace)

/-- R103, lines 1 to 6: READ is rejected on a null destination or a bad range, then by the guard; else it issues one
burst read; on `ok` it answers the bytes as stored, on `fail` `I2cReadError`, on `hang` nothing; it writes no state but
`HUNG` on a hang. -/
def Obligations.ReadFollowsItsRule : Prop :=
  ∀ (present : Bool) (start len : Byte) (s : State), s.dev.wf →
    (present = false ∨ ¬ Claims.InRange start.toNat len.toNat →
      exec (.read present start len) s = .next (s.answered .invalidParameter .plain 0 []))
    ∧ (present = true → Claims.InRange start.toNat len.toNat → s.gs ≠ .ready →
      exec (.read present start len) s = .next (s.answered .deviceSetupError .guard 0 []))
    ∧ (present = true → Claims.InRange start.toNat len.toNat → s.gs = .ready →
      (s.transferAnswer = .ok → ∃ bytes : List Byte, bytes.length = len.toNat
          ∧ (∀ i, i < len.toNat → bytes[i]? = s.dev.read (start.toNat + i))
          ∧ exec (.read present start len) s
            = .next ((s.issueRead start.toNat len.toNat).answered .ok .plain 0 bytes))
      ∧ (s.transferAnswer = .fail → exec (.read present start len) s
            = .next ((s.issueRead start.toNat len.toNat).answered .i2cReadError .plain 0 []))
      ∧ (s.transferAnswer = .hang → exec (.read present start len) s
            = .next ((s.issueRead start.toNat len.toNat).setHung true)))
    ∧ (encodeWord (.read present start len)).toNat
        = (if present then 0x98000000 else 0x90000000) + start.toNat * 0x100 + len.toNat

/-- R104, lines 1 to 6: WRITE is rejected on a null source or a bad range, then by the guard; else it issues one burst
write; on `ok` every byte is in its register and the others are unchanged, on `fail` and on `hang` no register changed. -/
def Obligations.WriteFollowsItsRule : Prop :=
  ∀ (start : Byte) (bs : List Byte) (s : State), s.dev.wf → bs.length ≤ 255 →
    (∀ n, exec (.write start (.null n)) s = .next (s.answered .invalidParameter .plain 0 []))
    ∧ (¬ Claims.InRange start.toNat bs.length →
      exec (.write start (.bytes bs)) s = .next (s.answered .invalidParameter .plain 0 []))
    ∧ (Claims.InRange start.toNat bs.length → s.gs ≠ .ready →
      exec (.write start (.bytes bs)) s = .next (s.answered .deviceSetupError .guard 0 []))
    ∧ (Claims.InRange start.toNat bs.length → s.gs = .ready →
      (s.transferAnswer = .ok → ∃ m : Memory,
          (∀ i, i < bs.length → m.read (start.toNat + i) = bs[i]?)
          ∧ (∀ a, a < start.toNat ∨ start.toNat + bs.length ≤ a → m.read a = s.dev.read a)
          ∧ exec (.write start (.bytes bs)) s
            = .next (((s.issueWrite start.toNat bs).setDev m).answered .ok .plain 0 []))
      ∧ (s.transferAnswer = .fail → exec (.write start (.bytes bs)) s
            = .next ((s.issueWrite start.toNat bs).answered .i2cWriteError .plain 0 []))
      ∧ (s.transferAnswer = .hang → exec (.write start (.bytes bs)) s
            = .next ((s.issueWrite start.toNat bs).setHung true)))
    ∧ (encodeWord (.write start (.bytes bs))).toNat = 0xA8000000 + start.toNat * 0x100 + bs.length
    ∧ (∀ n : Byte, (encodeWord (.write start (.null n))).toNat = 0xA0000000 + start.toNat * 0x100 + n.toNat)

/-- SETALARM succeeds (43_register_access.md R105 lines 4, 5, 8 and 9): control byte `0x80` first, then the five alarm
bytes; bits 6:0 of the control register become 0, every other register and element is as before. The value `0x80` is
decision D14 of the spec. -/
def Obligations.SetalarmSucceeds : Prop :=
  ∀ (r : AlarmRecord) (s : State), s.dev.wf → alarmMask r = 0 → s.gs = .ready → s.transferAnswer = .ok →
    (s.issueWrite 0x01 [0x80]).transferAnswer = .ok →
      ∃ t, exec (.setalarm (.bytes r.toBytes)) s = .next t
        ∧ t.dev.read 0x01 = some 0x80
        ∧ (∀ j, j < 5 → t.dev.read (0x0B + j) = r.toBytes[j]?)
        ∧ (∀ a, a ≠ 0x01 → (a < 0x0B ∨ 0x0F < a) → t.dev.read a = s.dev.read a)
        ∧ t.gs = s.gs ∧ t.hc = s.hc ∧ t.irqEn = s.irqEn ∧ t.workPending = s.workPending
        ∧ t.alarmFired = s.alarmFired ∧ t.hung = s.hung ∧ t.agenda = s.agenda
        ∧ t.trace = .response ⟨.ok, .plain, 0, []⟩ :: .burstWrite 0x51 0x0B r.toBytes .ok
            :: .burstWrite 0x51 0x01 [0x80] .ok :: s.trace

/-- R44 (with R105 (b)): SETALARM is two transfers and not atomic. When the first fails nothing was written and the
second is not issued; when the second fails the control byte stays `0x80` over the old alarm bytes, nothing is rolled
back; both are answered `I2cWriteError`, and the guard stays as it was. -/
def Obligations.SetalarmIsNotAtomic : Prop :=
  ∀ (r : AlarmRecord) (s : State), s.dev.wf → alarmMask r = 0 → s.gs = .ready →
    (s.transferAnswer = .fail → ∃ t, exec (.setalarm (.bytes r.toBytes)) s = .next t ∧ t.dev = s.dev ∧ t.gs = s.gs
        ∧ t.trace = .response ⟨.i2cWriteError, .plain, 0, []⟩ :: .burstWrite 0x51 0x01 [0x80] .fail :: s.trace)
    ∧ (s.transferAnswer = .ok → (s.issueWrite 0x01 [0x80]).transferAnswer = .fail →
      ∃ t, exec (.setalarm (.bytes r.toBytes)) s = .next t
        ∧ t.dev.read 0x01 = some 0x80 ∧ (∀ a, a ≠ 0x01 → t.dev.read a = s.dev.read a) ∧ t.gs = s.gs
        ∧ t.trace = .response ⟨.i2cWriteError, .plain, 0, []⟩ :: .burstWrite 0x51 0x0B r.toBytes .fail
            :: .burstWrite 0x51 0x01 [0x80] .ok :: s.trace)

/-- A READ returns what the last successful WRITE stored (20_memory.md R33, R37, R40 (c); the source's round trip E7):
for every range and every bytes, when the read too is answered `ok`. -/
def Obligations.ReadReturnsWhatWriteStored : Prop :=
  ∀ (start : Byte) (bs : List Byte) (s t : State), s.dev.wf → Claims.InRange start.toNat bs.length →
    s.gs = .ready → s.transferAnswer = .ok → exec (.write start (.bytes bs)) s = .next t →
    t.transferAnswer = .ok →
      exec (.read true start (BitVec.ofNat 8 bs.length)) t
        = .next ((t.issueRead start.toNat bs.length).answered .ok .plain 0 bs)

/-- The source's end-to-end properties E9 and E10: after a successful INIT the time range reads back as the record, and
after a successful SETALARM the alarm range reads back as the record and the control byte as `0x80`. -/
def Obligations.RecordsReadBack : Prop :=
  (∀ (r : TimeRecord) (s t : State), s.dev.wf → timeMask r true = 0 → exec (.init (some r)) s = .next t →
      t.trace.head? = some (.response ⟨.ok, .plain, 0, []⟩) →
      t.transferAnswer = .ok →
        exec rdtime t = .next ((t.issueRead 0x04 7).answered .ok .plain 0 r.toBytes))
    ∧ (∀ (r : AlarmRecord) (s t : State), s.dev.wf → alarmMask r = 0 → s.gs = .ready →
      exec (.setalarm (.bytes r.toBytes)) s = .next t → t.trace.head? = some (.response ⟨.ok, .plain, 0, []⟩) →
      t.transferAnswer = .ok →
        exec rdalarm t = .next ((t.issueRead 0x0B 5).answered .ok .plain 0 r.toBytes)
          ∧ exec rdctrl t = .next ((t.issueRead 0x01 1).answered .ok .plain 0 [0x80]))

/-- R38: the transfers each command issues, from what leaves the block, newest first. Pure commands, rejected commands
and guarded commands outside `Ready` none; READ and WRITE one; INIT one after both set-up questions answered `ok` and none
otherwise; SETALARM the control byte and then, only if that answered `ok`, the five alarm bytes; the deferred run one read
of all 18 registers. -/
def Obligations.TransfersPerCommand : Prop :=
  ∀ s t : State, s.dev.wf →
    (∀ i : Instr, i.IsPure → exec i s = .next t → Claims.CallsMade s t [])
    ∧ (∀ i : Instr, i.WellFormed = true → Claims.BadArguments i → exec i s = .next t → Claims.CallsMade s t [])
    ∧ (∀ i : Instr, (∀ record, i ≠ .init record) → s.gs ≠ .ready → exec i s = .next t → Claims.CallsMade s t [])
    ∧ (∀ start len : Byte, Claims.InRange start.toNat len.toNat → s.gs = .ready →
        exec (.read true start len) s = .next t →
        Claims.CallsMade s t [.burstRead 0x51 start.toNat len.toNat s.transferAnswer])
    ∧ (∀ (start : Byte) (bs : List Byte), Claims.InRange start.toNat bs.length → s.gs = .ready →
        exec (.write start (.bytes bs)) s = .next t →
        Claims.CallsMade s t [.burstWrite 0x51 start.toNat bs s.transferAnswer])
    ∧ (∀ r : TimeRecord, timeMask r true = 0 → exec (.init (some r)) s = .next t →
        (s.deviceReadyAnswer = .fail → Claims.CallsMade s t [.deviceReady .fail])
        ∧ (s.deviceReadyAnswer = .ok → s.askDeviceReady.irqSetupAnswer = .fail →
          Claims.CallsMade s t [.irqSetup .fail, .deviceReady .ok])
        ∧ (s.deviceReadyAnswer = .ok → s.askDeviceReady.irqSetupAnswer = .ok →
          Claims.CallsMade s t [.burstWrite 0x51 0x04 r.toBytes s.askDeviceReady.askIrqSetup.transferAnswer,
            .irqSetup .ok, .deviceReady .ok]))
    ∧ (∀ r : AlarmRecord, alarmMask r = 0 → s.gs = .ready → exec (.setalarm (.bytes r.toBytes)) s = .next t →
        (s.transferAnswer = .ok →
          Claims.CallsMade s t [.burstWrite 0x51 0x0B r.toBytes (s.issueWrite 0x01 [0x80]).transferAnswer,
            .burstWrite 0x51 0x01 [0x80] .ok])
        ∧ (s.transferAnswer ≠ .ok → Claims.CallsMade s t [.burstWrite 0x51 0x01 [0x80] s.transferAnswer]))
    ∧ (stepRun s = .next t → Claims.CallsMade s t [.burstRead 0x51 0x00 18 s.transferAnswer])

/-- R109: the guard state machine in full, for a block that is not hung when the command begins. -/
def Obligations.GuardStateMachine : Prop :=
  (∀ (record : Option TimeRecord) (s t : State), s.hung = false → exec (.init record) s = .next t →
      (t.hung = true ∧ t.gs = s.gs)
        ∨ (t.hung = false ∧ ∃ r : Response, t.trace.head? = some (.response r)
          ∧ ((r.err = .invalidParameter ∧ t.gs = s.gs) ∨ (r.err = .deviceSetupError ∧ t.gs = .failed)
            ∨ (r.err = .i2cWriteError ∧ t.gs = .failed) ∨ (r.err = .ok ∧ t.gs = .ready))))
    ∧ (∀ (i : Instr) (s t : State), (∀ record, i ≠ .init record) → exec i s = .next t → t.gs = s.gs)
    ∧ (∀ s t : State, takeIllegalCommand s = .next t → t.gs = s.gs)
    ∧ (∀ s : State, (stepEdge s).gs = s.gs) ∧ (∀ s t : State, stepRun s = .next t → t.gs = s.gs)
    ∧ (∀ s : State, (stepClear s).gs = s.gs)

/-- Every command that does not hang ends with exactly one response, which leaves the block last, after all its effects
(30_encoding.md R59, 20_memory.md R40 (b)). -/
def Obligations.OneResponsePerCommand : Prop :=
  ∀ (i : Instr) (s t : State), s.hung = false → exec i s = .next t →
    (t.hung = false ∧ t.responses = s.responses + 1 ∧ ∃ r, t.trace.head? = some (.response r))
      ∨ (t.hung = true ∧ t.responses = s.responses)

/-- What a response may hold (30_encoding.md R59, R61): bytes only from PARSE (always `OK`, always 7) and from READ with
`OK` (as many as asked for), never with an error; a nonzero `VAL` with `OK` only from ENC, DEC and MONTH, with an error only
from VTIME and VALARM; the sub-codes only with their error and their command, DEC's exactly when its byte is not BCD. -/
def Obligations.ResponseFieldsFit : Prop :=
  ∀ (i : Instr) (s t : State) (r : Response), s.hung = false → exec i s = .next t → t.hung = false →
    t.trace.head? = some (.response r) →
      (r.err ≠ .ok → r.dout = [])
      ∧ (r.err ≠ .ok → (∀ init rec, i ≠ .vtime init rec) → (∀ rec, i ≠ .valarm rec) → r.val = 0)
      ∧ (r.err = .ok → r.val ≠ 0 → (∃ v, i = .enc v) ∨ (∃ b, i = .dec b) ∨ ∃ c0 c1 c2, i = .month c0 c1 c2)
      ∧ (r.err = .ok → r.dout ≠ [] → (∃ date time, i = .parse date time) ∨ ∃ p a n, i = .read p a n)
      ∧ (∀ date time, i = .parse date time → r.err = .ok ∧ r.dout.length = 7)
      ∧ (∀ p a n, i = .read p a n → r.err = .ok → r.dout.length = n.toNat)
      ∧ (r.detail = .i2cDevice ∨ r.detail = .irqLine → r.err = .deviceSetupError ∧ ∃ rec, i = .init rec)
      ∧ (r.detail = .guard → r.err = .deviceSetupError ∧ s.gs ≠ .ready
          ∧ ((∃ p a n, i = .read p a n) ∨ (∃ a src, i = .write a src) ∨ ∃ src, i = .setalarm src))
      ∧ (r.detail = .notBcd → r.err = .ok)
      ∧ (r.detail = .notBcd ↔ ∃ b, i = .dec b ∧ bcdValid b = false)
      ∧ (r.err = .deviceSetupError → r.detail ≠ .plain)
      ∧ r.err ≠ .illegalCommand

/-- What an error leaves behind, cause by cause (60_exceptions.md R121 "effects before the error", R123): no error touches
the latch, the queue or `HUNG`; outside INIT none changes `GS`, `HC` or `IRQ_EN`, and in INIT each cause changes what its row
lists; outside SETALARM none changes a register, and in SETALARM only `I2cWriteError` of the second transfer does, which
leaves `0x80` in `0x01` (decisions D14, D17, D19, D28). The illegal word's row is `IllegalWordsAreAnswered`. -/
def Obligations.ErrorsLeaveOnlyListedEffects : Prop :=
  ∀ (i : Instr) (s t : State) (r : Response), s.hung = false → exec i s = .next t → t.hung = false →
    t.trace.head? = some (.response r) → r.err ≠ .ok →
      t.alarmFired = s.alarmFired ∧ t.workPending = s.workPending
      ∧ ((∀ record, i ≠ .init record) → t.gs = s.gs ∧ t.hc = s.hc ∧ t.irqEn = s.irqEn)
      ∧ (∀ record, i = .init record →
          (r.err = .invalidParameter → t.gs = s.gs ∧ t.hc = s.hc ∧ t.irqEn = s.irqEn)
          ∧ (r.err = .deviceSetupError → r.detail = .i2cDevice → t.gs = .failed ∧ t.hc = s.hc ∧ t.irqEn = s.irqEn)
          ∧ (r.err = .deviceSetupError → r.detail = .irqLine → t.gs = .failed ∧ t.hc = true ∧ t.irqEn = s.irqEn)
          ∧ (r.err = .i2cWriteError → t.gs = .failed ∧ t.hc = true ∧ t.irqEn = true))
      ∧ ((∀ src, i ≠ .setalarm src) → ∀ a, t.dev.read a = s.dev.read a)
      ∧ (∀ src, i = .setalarm src →
          (r.err ≠ .i2cWriteError → ∀ a, t.dev.read a = s.dev.read a)
          ∧ (r.err = .i2cWriteError → s.transferAnswer ≠ .ok → ∀ a, t.dev.read a = s.dev.read a)
          ∧ (r.err = .i2cWriteError → s.transferAnswer = .ok → t.dev.read 0x01 = some 0x80))
      ∧ (∀ a, a ≠ 0x01 → t.dev.read a = s.dev.read a)

/-! ### Frames -/

/-- Frame of the pure commands: one response leaves the block and nothing else, every element and register is as before
(40_bcd_codec.md R74). -/
def Obligations.PureCommandsFrame : Prop :=
  ∀ (i : Instr) (s t : State), i.IsPure → exec i s = .next t →
    t.gs = s.gs ∧ t.hc = s.hc ∧ t.irqEn = s.irqEn ∧ t.workPending = s.workPending ∧ t.alarmFired = s.alarmFired
      ∧ t.hung = s.hung ∧ t.env = s.env ∧ t.agenda = s.agenda ∧ (∀ a, t.dev.read a = s.dev.read a)
      ∧ ∃ r : Response, t.trace = .response r :: s.trace

/-- Frame of READ, WRITE and SETALARM: no element of the block but `HUNG` changes, and no register but those of the
range WRITE is given, or the control register and the alarm registers of SETALARM (43_register_access.md R103 to R105).
The addresses stored to are those the meanings use: `start`, `ctrlAddr`, `alarmReg`. -/
def Obligations.RegisterAccessFrame : Prop :=
  ∀ s t : State,
    (∀ i : Instr, ((∃ p a n, i = .read p a n) ∨ (∃ a src, i = .write a src) ∨ ∃ src, i = .setalarm src) →
      exec i s = .next t →
        t.gs = s.gs ∧ t.hc = s.hc ∧ t.irqEn = s.irqEn ∧ t.workPending = s.workPending
          ∧ t.alarmFired = s.alarmFired ∧ t.agenda = s.agenda ∧ (s.hung = true → t.hung = true))
    ∧ (∀ p start len, exec (.read p start len) s = .next t → ∀ a, t.dev.read a = s.dev.read a)
    ∧ (∀ start n, exec (.write start (.null n)) s = .next t → ∀ a, t.dev.read a = s.dev.read a)
    ∧ (∀ start bs, exec (.write start (.bytes bs)) s = .next t →
        ∀ a, a < start.toNat ∨ start.toNat + bs.length ≤ a → t.dev.read a = s.dev.read a)
    ∧ (∀ src, exec (.setalarm src) s = .next t →
        ∀ a, a ≠ Config.ctrlAddr → (∀ j, j < 5 → a ≠ alarmReg j) → t.dev.read a = s.dev.read a)

/-- Frame of INIT: `ALARM_FIRED`, `WORK_PENDING` and the agenda are as before, `HC` and `IRQ_EN` are never cleared, and no
register but the seven time registers changes, none at all when the record is rejected (43_register_access.md R102). -/
def Obligations.InitFrame : Prop :=
  ∀ (record : Option TimeRecord) (s t : State), exec (.init record) s = .next t →
    t.alarmFired = s.alarmFired ∧ t.workPending = s.workPending ∧ t.agenda = s.agenda
      ∧ (s.hc = true → t.hc = true) ∧ (s.irqEn = true → t.irqEn = true) ∧ (s.hung = true → t.hung = true)
      ∧ (∀ a, (∀ i, i < 7 → a ≠ timeReg i) → t.dev.read a = s.dev.read a)
      ∧ (Claims.BadArguments (.init record) →
          t.gs = s.gs ∧ t.hc = s.hc ∧ t.irqEn = s.irqEn ∧ t.hung = s.hung ∧ t.env = s.env
            ∧ ∀ a, t.dev.read a = s.dev.read a)

/-! ### Whole-machine rules -/

/-- Only INIT and `RESET` write `GS` (10_state.md R11), and nothing clears `HC` or `IRQ_EN` but `RESET` (R12, R13), over
every step. -/
def Obligations.WhoWritesGuardState : Prop :=
  ∀ s t : State, step s = .next t →
    (t.gs ≠ s.gs → (∃ rest, s.agenda = .reset :: rest)
        ∨ ∃ w din rest record, s.agenda = .command w din :: rest ∧ decode w din = .instr (.init record))
      ∧ ((s.hc = true ∧ t.hc = false) ∨ (s.irqEn = true ∧ t.irqEn = false) → ∃ rest, s.agenda = .reset :: rest)

/-- `DEV` changes in no other way than by a successful burst write of INIT, WRITE or SETALARM (20_memory.md R37): where a
step changes a register, the write that did it is in what left the block, and its range holds that register. -/
def Obligations.DeviceChangesOnlyByWrites : Prop :=
  ∀ (s t : State) (a : Nat), step s = .next t → t.dev.read a ≠ s.dev.read a →
    ∃ w din rest i start bs news, s.agenda = .command w din :: rest ∧ decode w din = .instr i
      ∧ ((∃ r, i = .init r) ∨ (∃ b src, i = .write b src) ∨ ∃ src, i = .setalarm src)
      ∧ t.trace = news ++ s.trace ∧ Output.burstWrite 0x51 start bs .ok ∈ news
      ∧ start ≤ a ∧ a < start + bs.length

/-- `ALARM_FIRED` becomes 1 only in a deferred run, never in an `EDGE` or a command, and becomes 0 only in `CLEAR` or
`RESET` (10_state.md R15, R22, 60_exceptions.md R130, 70_reset_and_hazards.md R140). -/
def Obligations.WhoWritesAlarmFired : Prop :=
  ∀ s t : State, step s = .next t →
    (s.alarmFired = false → t.alarmFired = true →
        s.workPending = true ∧ s.hung = false ∧ (s.agenda = [] ∨ ∃ rest, s.agenda = .run :: rest))
      ∧ (s.alarmFired = true → t.alarmFired = false →
        ∃ rest, s.agenda = .clear :: rest ∨ s.agenda = .reset :: rest)

/-! ### The alarm interrupt -/

/-- `EDGE` is taken when the block is not hung: it sets `WORK_PENDING` if a callback is registered and otherwise does
nothing; it touches no other element, calls nothing and answers nothing (60_exceptions.md R127; an edge without a callback
is lost: decision D32). That an edge while hung is dropped from the agenda with no other effect is the model's choice
(assumption log 3). -/
def Obligations.EdgeQueuesOneItem : Prop :=
  ∀ (s : State) (rest : List Event), s.agenda = .edge :: rest →
    (s.hung = false → s.irqEn = true → step s = .next ((s.setAgenda rest).setWorkPending true))
      ∧ (s.hung = false → s.irqEn = false → step s = .next (s.setAgenda rest))
      ∧ (s.hung = true → step s = .next (s.setAgenda rest))

/-- `RUN`, enabled by a queued item in a block that is not hung, in every guard state: the item is taken, all 18 registers
are read once from `0x00`; on `ok` the snapshot is emitted and on `ok` and `fail` the latch is set (decision D33); on `hang`
`HUNG` is set and the latch is not (60_exceptions.md R128). That a `RUN` which is not enabled is dropped from the agenda with
no other effect is the model's choice (assumption log 3). -/
def Obligations.RunReadsBackAndSetsLatch : Prop :=
  ∀ (s : State) (rest : List Event), s.dev.wf → s.agenda = .run :: rest →
    (s.hung = true ∨ s.workPending = false → step s = .next (s.setAgenda rest))
    ∧ (s.hung = false → s.workPending = true →
      ∃ t, step s = .next t ∧ t.workPending = false ∧ t.gs = s.gs ∧ t.hc = s.hc ∧ t.irqEn = s.irqEn
        ∧ t.dev = s.dev ∧ t.agenda = rest
        ∧ (s.transferAnswer = .ok → t.alarmFired = true ∧ t.hung = false ∧ ∃ bytes : List Byte,
            bytes.length = 18 ∧ (∀ a, a < 18 → bytes[a]? = s.dev.read a)
            ∧ t.trace = .snapshot bytes :: .burstRead 0x51 0x00 18 .ok :: s.trace)
        ∧ (s.transferAnswer = .fail → t.alarmFired = true ∧ t.hung = false
            ∧ t.trace = .burstRead 0x51 0x00 18 .fail :: s.trace)
        ∧ (s.transferAnswer = .hang → t.alarmFired = s.alarmFired ∧ t.hung = true
            ∧ t.trace = .burstRead 0x51 0x00 18 .hang :: s.trace))

/-- Coalescing (60_exceptions.md R129): any number of further edges before the deferred run makes no difference, the same
state is reached as with one. -/
def Obligations.EdgesCoalesce : Prop :=
  ∀ (n : Nat) (s : State) (rest : List Event), s.hung = false →
    steps (n + 1) (s.setAgenda (List.replicate (n + 1) .edge ++ rest)) = step (s.setAgenda (.edge :: rest))

/-- A deferred run that is pending happens when the outside world leaves the block idle (60_exceptions.md R130; that it
happens at the first idle step is the model's choice, assumption log 5). -/
def Obligations.PendingRunHappensWhenIdle : Prop :=
  ∀ s : State, s.dev.wf → s.agenda = [] → s.workPending = true → s.hung = false →
    ∃ t, step s = .next t ∧ t.workPending = false ∧ (s.transferAnswer ≠ .hang → t.alarmFired = true)

/-- R22: `CLEAR` does `ALARM_FIRED <- 0` and nothing else, also while hung; the status outputs show `GS` (coded 0, 1, 2),
`HC` and `ALARM_FIRED`; when a `CLEAR` and a deferred run are both due, either order is possible and the later wins. -/
def Obligations.ClearClearsTheLatchOnly : Prop :=
  (∀ (s : State) (rest : List Event), s.agenda = .clear :: rest →
      step s = .next ((s.setAgenda rest).setAlarmFired false))
    ∧ (∀ s : State, s.statusHc = s.hc ∧ s.statusAlarmFired = s.alarmFired
        ∧ (s.statusGs = 0 ↔ s.gs = .uninitialized) ∧ (s.statusGs = 1 ↔ s.gs = .ready)
        ∧ (s.statusGs = 2 ↔ s.gs = .failed))
    ∧ (∀ (s : State) (rest : List Event), s.dev.wf → s.hung = false → s.workPending = true → s.transferAnswer ≠ .hang →
        (s.agenda = .run :: .clear :: rest → ∃ t u, step s = .next t ∧ step t = .next u ∧ u.alarmFired = false)
        ∧ (s.agenda = .clear :: .run :: rest → ∃ t u, step s = .next t ∧ step t = .next u ∧ u.alarmFired = true))
end

