-- ==== Sys2Proof/Laws/Decode.lean ====
section
/-! SUPPORT. The fields of a packed command word, and which row of the opcode map it belongs to. -/

namespace Sys2Proof

@[simp] theorem opField_packWord (op : BitVec 4) (p : Bool) (a n : Byte) : opField (packWord op p a n) = op := by
  apply BitVec.eq_of_getLsbD_eq
  intro i hi
  simp only [opField, packWord, BitVec.getLsbD_extractLsb', BitVec.getLsbD_append]
  have h1 : ¬ (28 + i < 8) := by omega
  have h2 : ¬ (28 + i - 8 < 8) := by omega
  have h3 : ¬ (28 + i - 8 - 8 < 11) := by omega
  have h4 : ¬ (28 + i - 8 - 8 - 11 < 1) := by omega
  have h5 : 28 + i - 8 - 8 - 11 - 1 = i := by omega
  simp [hi, h1, h2, h3, h4, h5]

@[simp] theorem pField_packWord (op : BitVec 4) (p : Bool) (a n : Byte) : pField (packWord op p a n) = p := by
  simp only [pField, packWord, BitVec.getLsbD_append]
  simp

@[simp] theorem zField_packWord (op : BitVec 4) (p : Bool) (a n : Byte) : zField (packWord op p a n) = 0 := by
  apply BitVec.eq_of_getLsbD_eq
  intro i hi
  simp only [zField, packWord, BitVec.getLsbD_extractLsb', BitVec.getLsbD_append]
  have h1 : ¬ (16 + i < 8) := by omega
  have h2 : ¬ (16 + i - 8 < 8) := by omega
  have h3 : 16 + i - 8 - 8 < 11 := by omega
  simp [h1, h2, h3]

@[simp] theorem aField_packWord (op : BitVec 4) (p : Bool) (a n : Byte) : aField (packWord op p a n) = a := by
  apply BitVec.eq_of_getLsbD_eq
  intro i hi
  simp only [aField, packWord, BitVec.getLsbD_extractLsb', BitVec.getLsbD_append]
  have h1 : ¬ (8 + i < 8) := by omega
  have h2 : 8 + i - 8 < 8 := by omega
  have h3 : 8 + i - 8 = i := by omega
  simp [hi, h1, h3]

@[simp] theorem nField_packWord (op : BitVec 4) (p : Bool) (a n : Byte) : nField (packWord op p a n) = n := by
  apply BitVec.eq_of_getLsbD_eq
  intro i hi
  simp only [nField, packWord, BitVec.getLsbD_extractLsb', BitVec.getLsbD_append]
  simp [hi]

@[simp] theorem iField_packWord (op : BitVec 4) (p : Bool) (a n : Byte) :
    iField (packWord op p a n) = a.getLsbD 0 := by
  simp only [iField, packWord, BitVec.getLsbD_append]
  simp

/-- The number of a packed word. -/
theorem packWord_toNat (op : BitVec 4) (p : Bool) (a n : Byte) :
    (packWord op p a n).toNat = op.toNat * 2 ^ 28 + p.toNat * 2 ^ 27 + a.toNat * 2 ^ 8 + n.toNat := by
  have h8 : n.toNat < 2 ^ 8 := n.isLt
  have h16 : a.toNat < 2 ^ 8 := a.isLt
  have hp : p.toNat < 2 := p.toNat_lt
  have hb : (BitVec.ofBool p).toNat = p.toNat := by cases p <;> rfl
  simp only [packWord, BitVec.toNat_append, hb]
  rw [← Nat.shiftLeft_add_eq_or_of_lt (by simpa using h8), ← Nat.shiftLeft_add_eq_or_of_lt (by simpa using h16),
    ← Nat.shiftLeft_add_eq_or_of_lt (by simp), ← Nat.shiftLeft_add_eq_or_of_lt (by simpa using hp)]
  simp only [Nat.shiftLeft_eq, BitVec.toNat_ofNat]
  omega

/-- A command word is determined by its five fields. -/
theorem word_ext (w w' : CmdWord) (hop : opField w = opField w') (hp : pField w = pField w')
    (hz : zField w = zField w') (ha : aField w = aField w') (hn : nField w = nField w') : w = w' := by
  apply BitVec.eq_of_getLsbD_eq
  intro i hi
  by_cases h8 : i < 8
  · have := congrArg (fun v => v.getLsbD i) hn
    simpa [nField, BitVec.getLsbD_extractLsb', h8] using this
  by_cases h16 : i < 16
  · have := congrArg (fun v => v.getLsbD (i - 8)) ha
    have e : 8 + (i - 8) = i := by omega
    have l : i - 8 < 8 := by omega
    simpa [aField, BitVec.getLsbD_extractLsb', e, l] using this
  by_cases h27 : i < 27
  · have := congrArg (fun v => v.getLsbD (i - 16)) hz
    have e : 16 + (i - 16) = i := by omega
    have l : i - 16 < 11 := by omega
    simpa [zField, BitVec.getLsbD_extractLsb', e, l] using this
  by_cases h28 : i < 28
  · have e : i = 27 := by omega
    simpa [pField, e] using hp
  · have := congrArg (fun v => v.getLsbD (i - 28)) hop
    have e : 28 + (i - 28) = i := by omega
    have l : i - 28 < 4 := by omega
    simpa [opField, BitVec.getLsbD_extractLsb', e, l] using this

/-- Packing the fields of a word whose reserved bits are 0 gives the word back. -/
theorem packWord_fields (w : CmdWord) (hz : zField w = 0) :
    packWord (opField w) (pField w) (aField w) (nField w) = w := by
  apply word_ext <;> simp [hz]

/-- Two words are equal exactly when their five fields are. -/
theorem word_eq_iff (w w' : CmdWord) :
    w = w' ↔ opField w = opField w' ∧ pField w = pField w' ∧ zField w = zField w' ∧ aField w = aField w'
      ∧ nField w = nField w' :=
  ⟨by rintro rfl; simp, fun ⟨h1, h2, h3, h4, h5⟩ => word_ext w w' h1 h2 h3 h4 h5⟩

theorem opField_and (w m : CmdWord) : opField (w &&& m) = opField w &&& opField m := by
  simp [opField, BitVec.extractLsb'_and]

theorem pField_and (w m : CmdWord) : pField (w &&& m) = (pField w && pField m) := by
  simp only [pField, BitVec.getLsbD_and]

theorem zField_and (w m : CmdWord) : zField (w &&& m) = zField w &&& zField m := by
  simp [zField, BitVec.extractLsb'_and]

theorem aField_and (w m : CmdWord) : aField (w &&& m) = aField w &&& aField m := by
  simp [aField, BitVec.extractLsb'_and]

theorem nField_and (w m : CmdWord) : nField (w &&& m) = nField w &&& nField m := by
  simp [nField, BitVec.extractLsb'_and]

/-- A word agrees with a row exactly when each of its fields does. -/
theorem masked_eq_iff (w m v : CmdWord) :
    w &&& m = v ↔ opField w &&& opField m = opField v ∧ (pField w && pField m) = pField v
      ∧ zField w &&& zField m = zField v ∧ aField w &&& aField m = aField v ∧ nField w &&& nField m = nField v := by
  rw [word_eq_iff, opField_and, pField_and, zField_and, aField_and, nField_and]

/-- The row of a word with this `OP`, then the test `w & mask = match` (R65), with the test in terms of the fields. -/
theorem opOf_of_find (w : CmdWord) (r : Row) (c : Prop) [Decidable c]
    (h : opcodeRows.find? (fun x => x.code == opField w) = some r)
    (hc : opField w &&& opField r.mask = opField r.pattern ∧ (pField w && pField r.mask) = pField r.pattern
      ∧ zField w &&& zField r.mask = zField r.pattern ∧ aField w &&& aField r.mask = aField r.pattern
      ∧ nField w &&& nField r.mask = nField r.pattern ↔ c) :
    opOf w = if c then some r.op else none := by
  simp only [opOf, h, masked_eq_iff, hc]

/-! ### Which words belong to which row, by their fields (R57, R62) -/

theorem opOf_of_enc (w : CmdWord) (h : opField w = 1) :
    opOf w = if pField w = false ∧ zField w = 0 ∧ nField w = 0 then some .enc else none := by
  refine opOf_of_find w ⟨.enc, 1, 0x10000000, 0xFFFF00FF⟩ _ (by rw [h]; rfl) ?_
  simp only [h, show opField 0xFFFF00FF = BitVec.allOnes 4 by decide, show opField 0x10000000 = 1 by decide,
    show pField 0xFFFF00FF = true by decide, show pField 0x10000000 = false by decide,
    show zField 0xFFFF00FF = BitVec.allOnes 11 by decide, show zField 0x10000000 = 0 by decide,
    show aField 0xFFFF00FF = 0 by decide, show aField 0x10000000 = 0 by decide,
    show nField 0xFFFF00FF = BitVec.allOnes 8 by decide, show nField 0x10000000 = 0 by decide, BitVec.and_allOnes]
  simp

theorem opOf_of_dec (w : CmdWord) (h : opField w = 2) :
    opOf w = if pField w = false ∧ zField w = 0 ∧ nField w = 0 then some .dec else none := by
  refine opOf_of_find w ⟨.dec, 2, 0x20000000, 0xFFFF00FF⟩ _ (by rw [h]; rfl) ?_
  simp only [h, show opField 0xFFFF00FF = BitVec.allOnes 4 by decide, show opField 0x20000000 = 2 by decide,
    show pField 0xFFFF00FF = true by decide, show pField 0x20000000 = false by decide,
    show zField 0xFFFF00FF = BitVec.allOnes 11 by decide, show zField 0x20000000 = 0 by decide,
    show aField 0xFFFF00FF = 0 by decide, show aField 0x20000000 = 0 by decide,
    show nField 0xFFFF00FF = BitVec.allOnes 8 by decide, show nField 0x20000000 = 0 by decide, BitVec.and_allOnes]
  simp

theorem opOf_of_month (w : CmdWord) (h : opField w = 3) :
    opOf w = if pField w = true ∧ zField w = 0 ∧ aField w = 0 ∧ nField w = 3 then some .month else none := by
  refine opOf_of_find w ⟨.month, 3, 0x38000003, 0xFFFFFFFF⟩ _ (by rw [h]; rfl) ?_
  simp only [h, show opField 0xFFFFFFFF = BitVec.allOnes 4 by decide, show opField 0x38000003 = 3 by decide,
    show pField 0xFFFFFFFF = true by decide, show pField 0x38000003 = true by decide,
    show zField 0xFFFFFFFF = BitVec.allOnes 11 by decide, show zField 0x38000003 = 0 by decide,
    show aField 0xFFFFFFFF = BitVec.allOnes 8 by decide, show aField 0x38000003 = 0 by decide,
    show nField 0xFFFFFFFF = BitVec.allOnes 8 by decide, show nField 0x38000003 = 3 by decide, BitVec.and_allOnes]
  simp

theorem opOf_of_parse (w : CmdWord) (h : opField w = 4) :
    opOf w = if pField w = true ∧ zField w = 0 ∧ aField w = 0 then some .parse else none := by
  refine opOf_of_find w ⟨.parse, 4, 0x48000000, 0xFFFFFF00⟩ _ (by rw [h]; rfl) ?_
  simp only [h, show opField 0xFFFFFF00 = BitVec.allOnes 4 by decide, show opField 0x48000000 = 4 by decide,
    show pField 0xFFFFFF00 = true by decide, show pField 0x48000000 = true by decide,
    show zField 0xFFFFFF00 = BitVec.allOnes 11 by decide, show zField 0x48000000 = 0 by decide,
    show aField 0xFFFFFF00 = BitVec.allOnes 8 by decide, show aField 0x48000000 = 0 by decide,
    show nField 0xFFFFFF00 = 0 by decide, show nField 0x48000000 = 0 by decide, BitVec.and_allOnes]
  simp

theorem opOf_of_vtime (w : CmdWord) (h : opField w = 5) :
    opOf w = if pField w = true ∧ zField w = 0 ∧ aField w &&& 0xFE = 0 ∧ nField w = 7 then some .vtime else none := by
  refine opOf_of_find w ⟨.vtime, 5, 0x58000007, 0xFFFFFEFF⟩ _ (by rw [h]; rfl) ?_
  simp only [h, show opField 0xFFFFFEFF = BitVec.allOnes 4 by decide, show opField 0x58000007 = 5 by decide,
    show pField 0xFFFFFEFF = true by decide, show pField 0x58000007 = true by decide,
    show zField 0xFFFFFEFF = BitVec.allOnes 11 by decide, show zField 0x58000007 = 0 by decide,
    show aField 0xFFFFFEFF = 254 by decide, show aField 0x58000007 = 0 by decide,
    show nField 0xFFFFFEFF = BitVec.allOnes 8 by decide, show nField 0x58000007 = 7 by decide, BitVec.and_allOnes]
  simp

theorem opOf_of_valarm (w : CmdWord) (h : opField w = 6) :
    opOf w = if pField w = true ∧ zField w = 0 ∧ aField w = 0 ∧ nField w = 5 then some .valarm else none := by
  refine opOf_of_find w ⟨.valarm, 6, 0x68000005, 0xFFFFFFFF⟩ _ (by rw [h]; rfl) ?_
  simp only [h, show opField 0xFFFFFFFF = BitVec.allOnes 4 by decide, show opField 0x68000005 = 6 by decide,
    show pField 0xFFFFFFFF = true by decide, show pField 0x68000005 = true by decide,
    show zField 0xFFFFFFFF = BitVec.allOnes 11 by decide, show zField 0x68000005 = 0 by decide,
    show aField 0xFFFFFFFF = BitVec.allOnes 8 by decide, show aField 0x68000005 = 0 by decide,
    show nField 0xFFFFFFFF = BitVec.allOnes 8 by decide, show nField 0x68000005 = 5 by decide, BitVec.and_allOnes]
  simp

theorem opOf_of_vrange (w : CmdWord) (h : opField w = 7) :
    opOf w = if pField w = false ∧ zField w = 0 then some .vrange else none := by
  refine opOf_of_find w ⟨.vrange, 7, 0x70000000, 0xFFFF0000⟩ _ (by rw [h]; rfl) ?_
  simp only [h, show opField 0xFFFF0000 = BitVec.allOnes 4 by decide, show opField 0x70000000 = 7 by decide,
    show pField 0xFFFF0000 = true by decide, show pField 0x70000000 = false by decide,
    show zField 0xFFFF0000 = BitVec.allOnes 11 by decide, show zField 0x70000000 = 0 by decide,
    show aField 0xFFFF0000 = 0 by decide, show aField 0x70000000 = 0 by decide,
    show nField 0xFFFF0000 = 0 by decide, show nField 0x70000000 = 0 by decide, BitVec.and_allOnes]
  simp

theorem opOf_of_init (w : CmdWord) (h : opField w = 8) :
    opOf w = if zField w = 0 ∧ aField w = 0 ∧ nField w = 7 then some .init else none := by
  refine opOf_of_find w ⟨.init, 8, 0x80000007, 0xF7FFFFFF⟩ _ (by rw [h]; rfl) ?_
  simp only [h, show opField 0xF7FFFFFF = BitVec.allOnes 4 by decide, show opField 0x80000007 = 8 by decide,
    show pField 0xF7FFFFFF = false by decide, show pField 0x80000007 = false by decide,
    show zField 0xF7FFFFFF = BitVec.allOnes 11 by decide, show zField 0x80000007 = 0 by decide,
    show aField 0xF7FFFFFF = BitVec.allOnes 8 by decide, show aField 0x80000007 = 0 by decide,
    show nField 0xF7FFFFFF = BitVec.allOnes 8 by decide, show nField 0x80000007 = 7 by decide, BitVec.and_allOnes]
  simp

theorem opOf_of_read (w : CmdWord) (h : opField w = 9) :
    opOf w = if zField w = 0 then some .read else none := by
  refine opOf_of_find w ⟨.read, 9, 0x90000000, 0xF7FF0000⟩ _ (by rw [h]; rfl) ?_
  simp only [h, show opField 0xF7FF0000 = BitVec.allOnes 4 by decide, show opField 0x90000000 = 9 by decide,
    show pField 0xF7FF0000 = false by decide, show pField 0x90000000 = false by decide,
    show zField 0xF7FF0000 = BitVec.allOnes 11 by decide, show zField 0x90000000 = 0 by decide,
    show aField 0xF7FF0000 = 0 by decide, show aField 0x90000000 = 0 by decide,
    show nField 0xF7FF0000 = 0 by decide, show nField 0x90000000 = 0 by decide, BitVec.and_allOnes]
  simp

theorem opOf_of_write (w : CmdWord) (h : opField w = 10) :
    opOf w = if zField w = 0 then some .write else none := by
  refine opOf_of_find w ⟨.write, 10, 0xA0000000, 0xF7FF0000⟩ _ (by rw [h]; rfl) ?_
  simp only [h, show opField 0xF7FF0000 = BitVec.allOnes 4 by decide, show opField 0xA0000000 = 10 by decide,
    show pField 0xF7FF0000 = false by decide, show pField 0xA0000000 = false by decide,
    show zField 0xF7FF0000 = BitVec.allOnes 11 by decide, show zField 0xA0000000 = 0 by decide,
    show aField 0xF7FF0000 = 0 by decide, show aField 0xA0000000 = 0 by decide,
    show nField 0xF7FF0000 = 0 by decide, show nField 0xA0000000 = 0 by decide, BitVec.and_allOnes]
  simp

theorem opOf_of_setalarm (w : CmdWord) (h : opField w = 11) :
    opOf w = if zField w = 0 ∧ aField w = 0 then some .setalarm else none := by
  refine opOf_of_find w ⟨.setalarm, 11, 0xB0000000, 0xF7FFFF00⟩ _ (by rw [h]; rfl) ?_
  simp only [h, show opField 0xF7FFFF00 = BitVec.allOnes 4 by decide, show opField 0xB0000000 = 11 by decide,
    show pField 0xF7FFFF00 = false by decide, show pField 0xB0000000 = false by decide,
    show zField 0xF7FFFF00 = BitVec.allOnes 11 by decide, show zField 0xB0000000 = 0 by decide,
    show aField 0xF7FFFF00 = BitVec.allOnes 8 by decide, show aField 0xB0000000 = 0 by decide,
    show nField 0xF7FFFF00 = 0 by decide, show nField 0xB0000000 = 0 by decide, BitVec.and_allOnes]
  simp

/-- No row has `OP` 0 or 12 to 15 (R62). -/
theorem opOf_reserved (w : CmdWord) (h : opField w = 0 ∨ 12 ≤ (opField w).toNat) : opOf w = none := by
  have hf : opcodeRows.find? (fun x => x.code == opField w) = none := by
    generalize opField w = v at h
    revert v
    decide
  simp only [opOf, hf]

end Sys2Proof
end

