-- ==== Sys2Proof/Laws/Memory.lean ====
section
/-! SUPPORT. The laws of the device register file: read after write, ranges, and that every operation keeps the canonical
form. -/

namespace Sys2Proof.Machine

theorem Memory.read_write (m : Memory) (a : Nat) (v : Byte) (k : Nat) :
    (m.write a v).read k = if k = a then (m.read k).map (fun _ => v) else m.read k := by
  induction m with
  | nil => simp [Memory.write, Memory.read]
  | cons c m ih =>
    obtain ⟨key, b⟩ := c
    have ih' : Memory.read (List.map (fun c => if c.1 = a then (a, v) else c) m) k
        = if k = a then (Memory.read m k).map (fun _ => v) else Memory.read m k := ih
    by_cases hk : key = a
    · subst hk
      by_cases hq : key = k
      · simp [Memory.write, Memory.read, hq]
      · simp [Memory.write, Memory.read, hq, ih']
    · by_cases hq : key = k
      · subst hq
        simp [Memory.write, Memory.read, hk]
      · simp [Memory.write, Memory.read, hk, hq, ih']

theorem Memory.read_write_same (m : Memory) (a : Nat) (v : Byte) (h : (m.read a).isSome) :
    (m.write a v).read a = some v := by
  obtain ⟨b, hb⟩ := Option.isSome_iff_exists.mp h
  simp [Memory.read_write, hb]

theorem Memory.read_write_other (m : Memory) (a k : Nat) (v : Byte) (h : k ≠ a) :
    (m.write a v).read k = m.read k := by
  simp [Memory.read_write, h]

theorem Memory.write_keys (m : Memory) (a : Nat) (v : Byte) :
    (m.write a v).map Prod.fst = m.map Prod.fst := by
  simp only [Memory.write, List.map_map]
  apply List.map_congr_left
  intro c _
  by_cases h : c.1 = a <;> simp [h]

theorem Memory.writeRange_keys (m : Memory) (start : Nat) (bs : List Byte) :
    (m.writeRange start bs).map Prod.fst = m.map Prod.fst := by
  induction bs generalizing m start with
  | nil => rfl
  | cons b bs ih => rw [Memory.writeRange, ih, Memory.write_keys]

/-- A write of one register keeps the canonical form. -/
theorem Memory.write_wf (m : Memory) (a : Nat) (v : Byte) (h : m.wf) : (m.write a v).wf :=
  (Memory.write_keys m a v).trans h

/-- A write of a range keeps the canonical form. -/
theorem Memory.writeRange_wf (m : Memory) (start : Nat) (bs : List Byte) (h : m.wf) : (m.writeRange start bs).wf :=
  (Memory.writeRange_keys m start bs).trans h

theorem Memory.read_isSome_iff_mem (m : Memory) (a : Nat) : (m.read a).isSome ↔ a ∈ m.map Prod.fst := by
  induction m with
  | nil => simp [Memory.read]
  | cons c m ih =>
    obtain ⟨key, b⟩ := c
    by_cases h : key = a
    · simp [Memory.read, h]
    · have h' : a ≠ key := fun e => h e.symm
      simp only [Memory.read, h, if_false, ih, List.map_cons, List.mem_cons, h', false_or]

/-- A canonical register file holds a byte exactly at the addresses 0 to 17. -/
theorem Memory.read_isSome_of_wf (m : Memory) (h : m.wf) (a : Nat) : (m.read a).isSome ↔ a < 18 := by
  rw [Memory.read_isSome_iff_mem, h]
  simp [Config.regSpace]

theorem Memory.covers_of_wf (m : Memory) (h : m.wf) (start len : Nat) (hr : start + len ≤ 18) :
    m.covers start len = true := by
  simp only [Memory.covers, List.all_eq_true, List.mem_range'_1]
  intro a ha
  exact (Memory.read_isSome_of_wf m h a).mpr (by omega)

theorem Memory.readRange_length (m : Memory) (start len : Nat) (bs : List Byte)
    (h : m.readRange start len = some bs) : bs.length = len := by
  induction len generalizing start bs with
  | zero => simp [Memory.readRange] at h; simp [← h]
  | succ len ih =>
    simp only [Memory.readRange] at h
    split at h
    · rename_i b bs' _ hbs
      cases h
      simp [ih (start + 1) bs' hbs]
    · cases h

theorem Memory.readRange_getElem (m : Memory) (start len : Nat) (bs : List Byte)
    (h : m.readRange start len = some bs) (i : Nat) (hi : i < len) : bs[i]? = m.read (start + i) := by
  induction len generalizing start bs i with
  | zero => omega
  | succ len ih =>
    simp only [Memory.readRange] at h
    split at h
    · rename_i b bs' hb hbs
      cases h
      cases i with
      | zero => simp [hb]
      | succ i =>
        have := ih (start + 1) bs' hbs i (by omega)
        simpa [Nat.add_assoc, Nat.add_comm 1 i] using this
    · cases h

theorem Memory.readRange_isSome_of_covers (m : Memory) (start len : Nat) (h : m.covers start len = true) :
    ∃ bs, m.readRange start len = some bs := by
  induction len generalizing start with
  | zero => exact ⟨[], rfl⟩
  | succ len ih =>
    simp only [Memory.covers, List.range'_succ, List.all_cons, Bool.and_eq_true] at h
    obtain ⟨b, hb⟩ := Option.isSome_iff_exists.mp h.1
    obtain ⟨bs, hbs⟩ := ih (start + 1) h.2
    exact ⟨b :: bs, by simp [Memory.readRange, hb, hbs]⟩

theorem Memory.writeRange_read_outside (m : Memory) (start : Nat) (bs : List Byte) (k : Nat)
    (h : k < start ∨ start + bs.length ≤ k) : (m.writeRange start bs).read k = m.read k := by
  induction bs generalizing m start with
  | nil => rfl
  | cons b bs ih =>
    simp only [List.length_cons] at h
    rw [Memory.writeRange, ih _ _ (by omega), Memory.read_write_other _ _ _ _ (by omega)]

theorem Memory.writeRange_read_inside (m : Memory) (start : Nat) (bs : List Byte) (i : Nat) (hi : i < bs.length)
    (h : (m.read (start + i)).isSome) : (m.writeRange start bs).read (start + i) = bs[i]? := by
  induction bs generalizing m start i with
  | nil => simp at hi
  | cons b bs ih =>
    cases i with
    | zero =>
      rw [Memory.writeRange, Memory.writeRange_read_outside _ _ _ _ (by omega)]
      simpa using Memory.read_write_same m start b h
    | succ i =>
      have e : start + (i + 1) = start + 1 + i := by omega
      rw [e] at h ⊢
      rw [Memory.writeRange, ih _ _ i (by simpa using hi)
        (by rw [Memory.read_write_other _ _ _ _ (by omega)]; exact h)]
      simp

/-- Reading a range right after writing it gives the bytes written. -/
theorem Memory.readRange_writeRange (m : Memory) (start : Nat) (bs : List Byte)
    (h : m.covers start bs.length = true) : (m.writeRange start bs).readRange start bs.length = some bs := by
  have hkeys : ∀ a, ((m.writeRange start bs).read a).isSome ↔ (m.read a).isSome := by
    intro a
    rw [Memory.read_isSome_iff_mem, Memory.read_isSome_iff_mem, Memory.writeRange_keys]
  have hall : ∀ a, start ≤ a → a < start + bs.length → (m.read a).isSome := by
    simp only [Memory.covers, List.all_eq_true, List.mem_range'_1] at h
    exact fun a h1 h2 => h a ⟨h1, h2⟩
  have hcov : (m.writeRange start bs).covers start bs.length = true := by
    simp only [Memory.covers, List.all_eq_true, List.mem_range'_1]
    exact fun a ha => (hkeys a).mpr (hall a ha.1 ha.2)
  obtain ⟨got, hgot⟩ := Memory.readRange_isSome_of_covers _ _ _ hcov
  have hlen := Memory.readRange_length _ _ _ _ hgot
  rw [hgot]
  congr 1
  apply List.ext_getElem? fun i => ?_
  by_cases hi : i < bs.length
  · rw [Memory.readRange_getElem _ _ _ _ hgot i hi,
      Memory.writeRange_read_inside m start bs i hi (hall _ (by omega) (by omega))]
  · rw [List.getElem?_eq_none (by omega), List.getElem?_eq_none (by omega)]

/-- The register file at power-on is canonical. -/
theorem Memory.powerOn_wf : Memory.powerOn.wf := by
  simp [Memory.wf, Memory.powerOn, Function.comp_def]

end Sys2Proof.Machine
end

