-- ==== Sys2Proof/Laws/State.lean ====
section
/-! SUPPORT. What each field holds after each update, one lemma per field per update, true by rfl, and the same for the
four ways of asking the environment. -/

namespace Sys2Proof.Machine

/-! ### setGs -/

@[simp] theorem State.setGs_gs (s : State) (v : GuardState) : (s.setGs v).gs = v := rfl
@[simp] theorem State.setGs_hc (s : State) (v : GuardState) : (s.setGs v).hc = s.hc := rfl
@[simp] theorem State.setGs_irqEn (s : State) (v : GuardState) : (s.setGs v).irqEn = s.irqEn := rfl
@[simp] theorem State.setGs_workPending (s : State) (v : GuardState) : (s.setGs v).workPending = s.workPending := rfl
@[simp] theorem State.setGs_alarmFired (s : State) (v : GuardState) : (s.setGs v).alarmFired = s.alarmFired := rfl
@[simp] theorem State.setGs_hung (s : State) (v : GuardState) : (s.setGs v).hung = s.hung := rfl
@[simp] theorem State.setGs_dev (s : State) (v : GuardState) : (s.setGs v).dev = s.dev := rfl
@[simp] theorem State.setGs_env (s : State) (v : GuardState) : (s.setGs v).env = s.env := rfl
@[simp] theorem State.setGs_agenda (s : State) (v : GuardState) : (s.setGs v).agenda = s.agenda := rfl
@[simp] theorem State.setGs_trace (s : State) (v : GuardState) : (s.setGs v).trace = s.trace := rfl

/-! ### setHc -/

@[simp] theorem State.setHc_gs (s : State) (v : Bool) : (s.setHc v).gs = s.gs := rfl
@[simp] theorem State.setHc_hc (s : State) (v : Bool) : (s.setHc v).hc = v := rfl
@[simp] theorem State.setHc_irqEn (s : State) (v : Bool) : (s.setHc v).irqEn = s.irqEn := rfl
@[simp] theorem State.setHc_workPending (s : State) (v : Bool) : (s.setHc v).workPending = s.workPending := rfl
@[simp] theorem State.setHc_alarmFired (s : State) (v : Bool) : (s.setHc v).alarmFired = s.alarmFired := rfl
@[simp] theorem State.setHc_hung (s : State) (v : Bool) : (s.setHc v).hung = s.hung := rfl
@[simp] theorem State.setHc_dev (s : State) (v : Bool) : (s.setHc v).dev = s.dev := rfl
@[simp] theorem State.setHc_env (s : State) (v : Bool) : (s.setHc v).env = s.env := rfl
@[simp] theorem State.setHc_agenda (s : State) (v : Bool) : (s.setHc v).agenda = s.agenda := rfl
@[simp] theorem State.setHc_trace (s : State) (v : Bool) : (s.setHc v).trace = s.trace := rfl

/-! ### setIrqEn -/

@[simp] theorem State.setIrqEn_gs (s : State) (v : Bool) : (s.setIrqEn v).gs = s.gs := rfl
@[simp] theorem State.setIrqEn_hc (s : State) (v : Bool) : (s.setIrqEn v).hc = s.hc := rfl
@[simp] theorem State.setIrqEn_irqEn (s : State) (v : Bool) : (s.setIrqEn v).irqEn = v := rfl
@[simp] theorem State.setIrqEn_workPending (s : State) (v : Bool) : (s.setIrqEn v).workPending = s.workPending := rfl
@[simp] theorem State.setIrqEn_alarmFired (s : State) (v : Bool) : (s.setIrqEn v).alarmFired = s.alarmFired := rfl
@[simp] theorem State.setIrqEn_hung (s : State) (v : Bool) : (s.setIrqEn v).hung = s.hung := rfl
@[simp] theorem State.setIrqEn_dev (s : State) (v : Bool) : (s.setIrqEn v).dev = s.dev := rfl
@[simp] theorem State.setIrqEn_env (s : State) (v : Bool) : (s.setIrqEn v).env = s.env := rfl
@[simp] theorem State.setIrqEn_agenda (s : State) (v : Bool) : (s.setIrqEn v).agenda = s.agenda := rfl
@[simp] theorem State.setIrqEn_trace (s : State) (v : Bool) : (s.setIrqEn v).trace = s.trace := rfl

/-! ### setWorkPending -/

@[simp] theorem State.setWorkPending_gs (s : State) (v : Bool) : (s.setWorkPending v).gs = s.gs := rfl
@[simp] theorem State.setWorkPending_hc (s : State) (v : Bool) : (s.setWorkPending v).hc = s.hc := rfl
@[simp] theorem State.setWorkPending_irqEn (s : State) (v : Bool) : (s.setWorkPending v).irqEn = s.irqEn := rfl
@[simp] theorem State.setWorkPending_workPending (s : State) (v : Bool) : (s.setWorkPending v).workPending = v := rfl
@[simp] theorem State.setWorkPending_alarmFired (s : State) (v : Bool) : (s.setWorkPending v).alarmFired = s.alarmFired := rfl
@[simp] theorem State.setWorkPending_hung (s : State) (v : Bool) : (s.setWorkPending v).hung = s.hung := rfl
@[simp] theorem State.setWorkPending_dev (s : State) (v : Bool) : (s.setWorkPending v).dev = s.dev := rfl
@[simp] theorem State.setWorkPending_env (s : State) (v : Bool) : (s.setWorkPending v).env = s.env := rfl
@[simp] theorem State.setWorkPending_agenda (s : State) (v : Bool) : (s.setWorkPending v).agenda = s.agenda := rfl
@[simp] theorem State.setWorkPending_trace (s : State) (v : Bool) : (s.setWorkPending v).trace = s.trace := rfl

/-! ### setAlarmFired -/

@[simp] theorem State.setAlarmFired_gs (s : State) (v : Bool) : (s.setAlarmFired v).gs = s.gs := rfl
@[simp] theorem State.setAlarmFired_hc (s : State) (v : Bool) : (s.setAlarmFired v).hc = s.hc := rfl
@[simp] theorem State.setAlarmFired_irqEn (s : State) (v : Bool) : (s.setAlarmFired v).irqEn = s.irqEn := rfl
@[simp] theorem State.setAlarmFired_workPending (s : State) (v : Bool) : (s.setAlarmFired v).workPending = s.workPending := rfl
@[simp] theorem State.setAlarmFired_alarmFired (s : State) (v : Bool) : (s.setAlarmFired v).alarmFired = v := rfl
@[simp] theorem State.setAlarmFired_hung (s : State) (v : Bool) : (s.setAlarmFired v).hung = s.hung := rfl
@[simp] theorem State.setAlarmFired_dev (s : State) (v : Bool) : (s.setAlarmFired v).dev = s.dev := rfl
@[simp] theorem State.setAlarmFired_env (s : State) (v : Bool) : (s.setAlarmFired v).env = s.env := rfl
@[simp] theorem State.setAlarmFired_agenda (s : State) (v : Bool) : (s.setAlarmFired v).agenda = s.agenda := rfl
@[simp] theorem State.setAlarmFired_trace (s : State) (v : Bool) : (s.setAlarmFired v).trace = s.trace := rfl

/-! ### setHung -/

@[simp] theorem State.setHung_gs (s : State) (v : Bool) : (s.setHung v).gs = s.gs := rfl
@[simp] theorem State.setHung_hc (s : State) (v : Bool) : (s.setHung v).hc = s.hc := rfl
@[simp] theorem State.setHung_irqEn (s : State) (v : Bool) : (s.setHung v).irqEn = s.irqEn := rfl
@[simp] theorem State.setHung_workPending (s : State) (v : Bool) : (s.setHung v).workPending = s.workPending := rfl
@[simp] theorem State.setHung_alarmFired (s : State) (v : Bool) : (s.setHung v).alarmFired = s.alarmFired := rfl
@[simp] theorem State.setHung_hung (s : State) (v : Bool) : (s.setHung v).hung = v := rfl
@[simp] theorem State.setHung_dev (s : State) (v : Bool) : (s.setHung v).dev = s.dev := rfl
@[simp] theorem State.setHung_env (s : State) (v : Bool) : (s.setHung v).env = s.env := rfl
@[simp] theorem State.setHung_agenda (s : State) (v : Bool) : (s.setHung v).agenda = s.agenda := rfl
@[simp] theorem State.setHung_trace (s : State) (v : Bool) : (s.setHung v).trace = s.trace := rfl

/-! ### setDev -/

@[simp] theorem State.setDev_gs (s : State) (v : Memory) : (s.setDev v).gs = s.gs := rfl
@[simp] theorem State.setDev_hc (s : State) (v : Memory) : (s.setDev v).hc = s.hc := rfl
@[simp] theorem State.setDev_irqEn (s : State) (v : Memory) : (s.setDev v).irqEn = s.irqEn := rfl
@[simp] theorem State.setDev_workPending (s : State) (v : Memory) : (s.setDev v).workPending = s.workPending := rfl
@[simp] theorem State.setDev_alarmFired (s : State) (v : Memory) : (s.setDev v).alarmFired = s.alarmFired := rfl
@[simp] theorem State.setDev_hung (s : State) (v : Memory) : (s.setDev v).hung = s.hung := rfl
@[simp] theorem State.setDev_dev (s : State) (v : Memory) : (s.setDev v).dev = v := rfl
@[simp] theorem State.setDev_env (s : State) (v : Memory) : (s.setDev v).env = s.env := rfl
@[simp] theorem State.setDev_agenda (s : State) (v : Memory) : (s.setDev v).agenda = s.agenda := rfl
@[simp] theorem State.setDev_trace (s : State) (v : Memory) : (s.setDev v).trace = s.trace := rfl

/-! ### setEnv -/

@[simp] theorem State.setEnv_gs (s : State) (v : Env) : (s.setEnv v).gs = s.gs := rfl
@[simp] theorem State.setEnv_hc (s : State) (v : Env) : (s.setEnv v).hc = s.hc := rfl
@[simp] theorem State.setEnv_irqEn (s : State) (v : Env) : (s.setEnv v).irqEn = s.irqEn := rfl
@[simp] theorem State.setEnv_workPending (s : State) (v : Env) : (s.setEnv v).workPending = s.workPending := rfl
@[simp] theorem State.setEnv_alarmFired (s : State) (v : Env) : (s.setEnv v).alarmFired = s.alarmFired := rfl
@[simp] theorem State.setEnv_hung (s : State) (v : Env) : (s.setEnv v).hung = s.hung := rfl
@[simp] theorem State.setEnv_dev (s : State) (v : Env) : (s.setEnv v).dev = s.dev := rfl
@[simp] theorem State.setEnv_env (s : State) (v : Env) : (s.setEnv v).env = v := rfl
@[simp] theorem State.setEnv_agenda (s : State) (v : Env) : (s.setEnv v).agenda = s.agenda := rfl
@[simp] theorem State.setEnv_trace (s : State) (v : Env) : (s.setEnv v).trace = s.trace := rfl

/-! ### setAgenda -/

@[simp] theorem State.setAgenda_gs (s : State) (v : List Event) : (s.setAgenda v).gs = s.gs := rfl
@[simp] theorem State.setAgenda_hc (s : State) (v : List Event) : (s.setAgenda v).hc = s.hc := rfl
@[simp] theorem State.setAgenda_irqEn (s : State) (v : List Event) : (s.setAgenda v).irqEn = s.irqEn := rfl
@[simp] theorem State.setAgenda_workPending (s : State) (v : List Event) : (s.setAgenda v).workPending = s.workPending := rfl
@[simp] theorem State.setAgenda_alarmFired (s : State) (v : List Event) : (s.setAgenda v).alarmFired = s.alarmFired := rfl
@[simp] theorem State.setAgenda_hung (s : State) (v : List Event) : (s.setAgenda v).hung = s.hung := rfl
@[simp] theorem State.setAgenda_dev (s : State) (v : List Event) : (s.setAgenda v).dev = s.dev := rfl
@[simp] theorem State.setAgenda_env (s : State) (v : List Event) : (s.setAgenda v).env = s.env := rfl
@[simp] theorem State.setAgenda_agenda (s : State) (v : List Event) : (s.setAgenda v).agenda = v := rfl
@[simp] theorem State.setAgenda_trace (s : State) (v : List Event) : (s.setAgenda v).trace = s.trace := rfl

/-! ### emit -/

@[simp] theorem State.emit_gs (s : State) (o : Output) : (s.emit o).gs = s.gs := rfl
@[simp] theorem State.emit_hc (s : State) (o : Output) : (s.emit o).hc = s.hc := rfl
@[simp] theorem State.emit_irqEn (s : State) (o : Output) : (s.emit o).irqEn = s.irqEn := rfl
@[simp] theorem State.emit_workPending (s : State) (o : Output) : (s.emit o).workPending = s.workPending := rfl
@[simp] theorem State.emit_alarmFired (s : State) (o : Output) : (s.emit o).alarmFired = s.alarmFired := rfl
@[simp] theorem State.emit_hung (s : State) (o : Output) : (s.emit o).hung = s.hung := rfl
@[simp] theorem State.emit_dev (s : State) (o : Output) : (s.emit o).dev = s.dev := rfl
@[simp] theorem State.emit_env (s : State) (o : Output) : (s.emit o).env = s.env := rfl
@[simp] theorem State.emit_agenda (s : State) (o : Output) : (s.emit o).agenda = s.agenda := rfl
@[simp] theorem State.emit_trace (s : State) (o : Output) : (s.emit o).trace = o :: s.trace := rfl

/-! ### askDeviceReady -/

@[simp] theorem State.askDeviceReady_gs (s : State) :
    s.askDeviceReady.gs = s.gs := rfl
@[simp] theorem State.askDeviceReady_hc (s : State) :
    s.askDeviceReady.hc = s.hc := rfl
@[simp] theorem State.askDeviceReady_irqEn (s : State) :
    s.askDeviceReady.irqEn = s.irqEn := rfl
@[simp] theorem State.askDeviceReady_workPending (s : State) :
    s.askDeviceReady.workPending = s.workPending := rfl
@[simp] theorem State.askDeviceReady_alarmFired (s : State) :
    s.askDeviceReady.alarmFired = s.alarmFired := rfl
@[simp] theorem State.askDeviceReady_hung (s : State) :
    s.askDeviceReady.hung = s.hung := rfl
@[simp] theorem State.askDeviceReady_dev (s : State) :
    s.askDeviceReady.dev = s.dev := rfl
@[simp] theorem State.askDeviceReady_env (s : State) :
    s.askDeviceReady.env = s.env.dropDeviceReady := rfl
@[simp] theorem State.askDeviceReady_agenda (s : State) :
    s.askDeviceReady.agenda = s.agenda := rfl
@[simp] theorem State.askDeviceReady_trace (s : State) :
    s.askDeviceReady.trace = .deviceReady s.deviceReadyAnswer :: s.trace := rfl

/-! ### askIrqSetup -/

@[simp] theorem State.askIrqSetup_gs (s : State) :
    s.askIrqSetup.gs = s.gs := rfl
@[simp] theorem State.askIrqSetup_hc (s : State) :
    s.askIrqSetup.hc = s.hc := rfl
@[simp] theorem State.askIrqSetup_irqEn (s : State) :
    s.askIrqSetup.irqEn = s.irqEn := rfl
@[simp] theorem State.askIrqSetup_workPending (s : State) :
    s.askIrqSetup.workPending = s.workPending := rfl
@[simp] theorem State.askIrqSetup_alarmFired (s : State) :
    s.askIrqSetup.alarmFired = s.alarmFired := rfl
@[simp] theorem State.askIrqSetup_hung (s : State) :
    s.askIrqSetup.hung = s.hung := rfl
@[simp] theorem State.askIrqSetup_dev (s : State) :
    s.askIrqSetup.dev = s.dev := rfl
@[simp] theorem State.askIrqSetup_env (s : State) :
    s.askIrqSetup.env = s.env.dropIrqSetup := rfl
@[simp] theorem State.askIrqSetup_agenda (s : State) :
    s.askIrqSetup.agenda = s.agenda := rfl
@[simp] theorem State.askIrqSetup_trace (s : State) :
    s.askIrqSetup.trace = .irqSetup s.irqSetupAnswer :: s.trace := rfl

/-! ### issueRead -/

@[simp] theorem State.issueRead_gs (s : State) (a n : Nat) :
    (s.issueRead a n).gs = s.gs := rfl
@[simp] theorem State.issueRead_hc (s : State) (a n : Nat) :
    (s.issueRead a n).hc = s.hc := rfl
@[simp] theorem State.issueRead_irqEn (s : State) (a n : Nat) :
    (s.issueRead a n).irqEn = s.irqEn := rfl
@[simp] theorem State.issueRead_workPending (s : State) (a n : Nat) :
    (s.issueRead a n).workPending = s.workPending := rfl
@[simp] theorem State.issueRead_alarmFired (s : State) (a n : Nat) :
    (s.issueRead a n).alarmFired = s.alarmFired := rfl
@[simp] theorem State.issueRead_hung (s : State) (a n : Nat) :
    (s.issueRead a n).hung = s.hung := rfl
@[simp] theorem State.issueRead_dev (s : State) (a n : Nat) :
    (s.issueRead a n).dev = s.dev := rfl
@[simp] theorem State.issueRead_env (s : State) (a n : Nat) :
    (s.issueRead a n).env = s.env.dropTransfer := rfl
@[simp] theorem State.issueRead_agenda (s : State) (a n : Nat) :
    (s.issueRead a n).agenda = s.agenda := rfl
@[simp] theorem State.issueRead_trace (s : State) (a n : Nat) :
    (s.issueRead a n).trace = .burstRead Config.chipAddr a n s.transferAnswer :: s.trace := rfl

/-! ### issueWrite -/

@[simp] theorem State.issueWrite_gs (s : State) (a : Nat) (bs : List Byte) :
    (s.issueWrite a bs).gs = s.gs := rfl
@[simp] theorem State.issueWrite_hc (s : State) (a : Nat) (bs : List Byte) :
    (s.issueWrite a bs).hc = s.hc := rfl
@[simp] theorem State.issueWrite_irqEn (s : State) (a : Nat) (bs : List Byte) :
    (s.issueWrite a bs).irqEn = s.irqEn := rfl
@[simp] theorem State.issueWrite_workPending (s : State) (a : Nat) (bs : List Byte) :
    (s.issueWrite a bs).workPending = s.workPending := rfl
@[simp] theorem State.issueWrite_alarmFired (s : State) (a : Nat) (bs : List Byte) :
    (s.issueWrite a bs).alarmFired = s.alarmFired := rfl
@[simp] theorem State.issueWrite_hung (s : State) (a : Nat) (bs : List Byte) :
    (s.issueWrite a bs).hung = s.hung := rfl
@[simp] theorem State.issueWrite_dev (s : State) (a : Nat) (bs : List Byte) :
    (s.issueWrite a bs).dev = s.dev := rfl
@[simp] theorem State.issueWrite_env (s : State) (a : Nat) (bs : List Byte) :
    (s.issueWrite a bs).env = s.env.dropTransfer := rfl
@[simp] theorem State.issueWrite_agenda (s : State) (a : Nat) (bs : List Byte) :
    (s.issueWrite a bs).agenda = s.agenda := rfl
@[simp] theorem State.issueWrite_trace (s : State) (a : Nat) (bs : List Byte) :
    (s.issueWrite a bs).trace = .burstWrite Config.chipAddr a bs s.transferAnswer :: s.trace := rfl

end Sys2Proof.Machine
end

