-- ==== Sys2Proof/Laws/Transport.lean ====
section
/-! SUPPORT. Everything a shared operation can do, one lemma per operation: the burst transfers, the draws, a response. -/

namespace Sys2Proof.Machine

/-! ### The burst transfers, by the answer -/

theorem State.memRead_of_ok (s : State) (start len : Nat) (bytes : List Byte) (ha : s.transferAnswer = .ok)
    (hb : s.dev.readRange start len = some bytes) : s.memRead start len = .done bytes (s.issueRead start len) := by
  simp [State.memRead, ha, hb]

theorem State.memRead_of_fail (s : State) (start len : Nat) (ha : s.transferAnswer = .fail) :
    s.memRead start len = .failed (s.issueRead start len) := by
  simp [State.memRead, ha]

theorem State.memRead_of_hang (s : State) (start len : Nat) (ha : s.transferAnswer = .hang) :
    s.memRead start len = .hung ((s.issueRead start len).setHung true) := by
  simp [State.memRead, ha]

theorem State.memWrite_of_ok (s : State) (start : Nat) (bytes : List Byte) (ha : s.transferAnswer = .ok)
    (hc : s.dev.covers start bytes.length = true) :
    s.memWrite start bytes = .done () ((s.issueWrite start bytes).setDev (s.dev.writeRange start bytes)) := by
  simp [State.memWrite, ha, hc]

theorem State.memWrite_of_fail (s : State) (start : Nat) (bytes : List Byte) (ha : s.transferAnswer = .fail) :
    s.memWrite start bytes = .failed (s.issueWrite start bytes) := by
  simp [State.memWrite, ha]

theorem State.memWrite_of_hang (s : State) (start : Nat) (bytes : List Byte) (ha : s.transferAnswer = .hang) :
    s.memWrite start bytes = .hung ((s.issueWrite start bytes).setHung true) := by
  simp [State.memWrite, ha]

/-! ### On a canonical register file the address always exists -/

/-- Everything a burst read inside the register space can do. -/
theorem State.memRead_cases (s : State) (h : s.dev.wf) (start len : Nat) (hr : start + len ≤ 18) :
    (∃ bytes, s.transferAnswer = .ok ∧ s.dev.readRange start len = some bytes
        ∧ s.memRead start len = .done bytes (s.issueRead start len))
      ∨ (s.transferAnswer = .fail ∧ s.memRead start len = .failed (s.issueRead start len))
      ∨ (s.transferAnswer = .hang ∧ s.memRead start len = .hung ((s.issueRead start len).setHung true)) := by
  obtain ⟨bytes, hb⟩ := Memory.readRange_isSome_of_covers _ _ _ (Memory.covers_of_wf s.dev h start len hr)
  cases ha : s.transferAnswer with
  | ok => exact .inl ⟨bytes, rfl, hb, s.memRead_of_ok _ _ _ ha hb⟩
  | fail => exact .inr (.inl ⟨rfl, s.memRead_of_fail _ _ ha⟩)
  | hang => exact .inr (.inr ⟨rfl, s.memRead_of_hang _ _ ha⟩)

/-- Everything a burst write inside the register space can do. -/
theorem State.memWrite_cases (s : State) (h : s.dev.wf) (start : Nat) (bytes : List Byte)
    (hr : start + bytes.length ≤ 18) :
    (s.transferAnswer = .ok
        ∧ s.memWrite start bytes = .done () ((s.issueWrite start bytes).setDev (s.dev.writeRange start bytes)))
      ∨ (s.transferAnswer = .fail ∧ s.memWrite start bytes = .failed (s.issueWrite start bytes))
      ∨ (s.transferAnswer = .hang
        ∧ s.memWrite start bytes = .hung ((s.issueWrite start bytes).setHung true)) := by
  cases ha : s.transferAnswer with
  | ok => exact .inl ⟨rfl, s.memWrite_of_ok _ _ ha (Memory.covers_of_wf s.dev h start _ hr)⟩
  | fail => exact .inr (.inl ⟨rfl, s.memWrite_of_fail _ _ ha⟩)
  | hang => exact .inr (.inr ⟨rfl, s.memWrite_of_hang _ _ ha⟩)

/-! ### Responses -/

theorem State.respond_eq_next (s t : State) (err : ErrCode) (detail : Detail) (val : Byte) (dout : List Byte) :
    s.respond err detail val dout = .next t ↔ t = s.emit (.response ⟨err, detail, val, dout⟩) := by
  simp [State.respond, eq_comm]

theorem State.raise_eq_next (s t : State) (err : ErrCode) (detail : Detail) :
    s.raise err detail = .next t ↔ t = s.emit (.response ⟨err, detail, 0, []⟩) := by
  simp [State.raise, State.respond_eq_next]

/-- A validator's answer is one response and nothing else. -/
theorem State.respondMask_eq (s : State) (mask : Byte) :
    s.respondMask mask
      = .next (s.emit (.response ⟨if mask = 0 then .ok else .invalidParameter, .plain, mask, []⟩)) := by
  unfold State.respondMask
  split
  · rename_i h
    simp [State.respond, h]
  · simp [State.respond]

/-! ### The arguments of the guarded operations -/

theorem rangeOk_iff (start len : Byte) :
    rangeOk start len = true ↔ 1 ≤ len.toNat ∧ len.toNat ≤ 18 ∧ start.toNat + len.toNat ≤ 18 := by
  simp only [rangeOk, Bool.and_eq_true, decide_eq_true_eq, and_assoc]
  exact Iff.rfl

theorem acceptedAlarm_eq_some (src : Source) (record : AlarmRecord) :
    acceptedAlarm src = some record ↔ src = .bytes record.toBytes ∧ alarmMask record = 0 := by
  constructor
  · intro h
    unfold acceptedAlarm at h
    split at h
    · cases h
    · rename_i bs
      split at h
      · cases h
      · rename_i r hr
        split at h
        · rename_i hm
          cases h
          refine ⟨?_, hm⟩
          unfold alarmRecordOfBytes at hr
          split at hr
          · cases hr; rfl
          · cases hr
        · cases h
  · rintro ⟨rfl, hm⟩
    simp [acceptedAlarm, AlarmRecord.toBytes, alarmRecordOfBytes, hm]

end Sys2Proof.Machine
end

