-- ==== Sys2Proof/Laws/Exec.lean ====
section
/-! SUPPORT. Everything a command, the deferred run and a step can do, one lemma each: if the answer is `next t`, then
one of the listed cases holds. Later proofs cite these and do not unfold a meaning. -/

namespace Sys2Proof.Machine

/-! ### What holds after a response -/

@[simp] theorem State.answered_gs (s : State) (e d v o) : (s.answered e d v o).gs = s.gs := rfl
@[simp] theorem State.answered_hc (s : State) (e d v o) : (s.answered e d v o).hc = s.hc := rfl
@[simp] theorem State.answered_irqEn (s : State) (e d v o) : (s.answered e d v o).irqEn = s.irqEn := rfl
@[simp] theorem State.answered_workPending (s : State) (e d v o) : (s.answered e d v o).workPending = s.workPending := rfl
@[simp] theorem State.answered_alarmFired (s : State) (e d v o) : (s.answered e d v o).alarmFired = s.alarmFired := rfl
@[simp] theorem State.answered_hung (s : State) (e d v o) : (s.answered e d v o).hung = s.hung := rfl
@[simp] theorem State.answered_dev (s : State) (e d v o) : (s.answered e d v o).dev = s.dev := rfl
@[simp] theorem State.answered_env (s : State) (e d v o) : (s.answered e d v o).env = s.env := rfl
@[simp] theorem State.answered_agenda (s : State) (e d v o) : (s.answered e d v o).agenda = s.agenda := rfl
@[simp] theorem State.answered_trace (s : State) (e d v o) : (s.answered e d v o).trace = .response ⟨e,d,v,o⟩ :: s.trace := rfl

/-! ### The transport on any register file -/

/-- Everything a burst write can do, on any register file. -/
theorem State.memWrite_inversion (s : State) (a : Nat) (bs : List Byte) :
   (s.transferAnswer = .ok ∧ s.dev.covers a bs.length = true
         ∧ s.memWrite a bs = .done () ((s.issueWrite a bs).setDev (s.dev.writeRange a bs)))
   ∨ (s.transferAnswer = .ok ∧ s.memWrite a bs = .absent a)
   ∨ (s.transferAnswer = .fail ∧ s.memWrite a bs = .failed (s.issueWrite a bs))
   ∨ (s.transferAnswer = .hang ∧ s.memWrite a bs = .hung ((s.issueWrite a bs).setHung true)) := by
  cases h : s.transferAnswer with
  | ok => by_cases hc : s.dev.covers a bs.length = true <;> simp [State.memWrite, h, hc]
  | fail => simp [State.memWrite, h]
  | hang => simp [State.memWrite, h]

/-- Everything a burst read can do, on any register file. -/
theorem State.memRead_inversion (s : State) (a n : Nat) :
   (∃ bytes, s.transferAnswer = .ok ∧ s.dev.readRange a n = some bytes
         ∧ s.memRead a n = .done bytes (s.issueRead a n))
   ∨ (s.transferAnswer = .ok ∧ s.memRead a n = .absent a)
   ∨ (s.transferAnswer = .fail ∧ s.memRead a n = .failed (s.issueRead a n))
   ∨ (s.transferAnswer = .hang ∧ s.memRead a n = .hung ((s.issueRead a n).setHung true)) := by
  cases h : s.transferAnswer with
  | ok => cases hc : s.dev.readRange a n <;> simp [State.memRead, h, hc]
  | fail => simp [State.memRead, h]
  | hang => simp [State.memRead, h]

/-! ### The states between the questions of SETALARM and INIT -/

/-- A state after the first transfer of SETALARM was answered `ok` (43_register_access.md R105). -/
@[irreducible] def State.afterAlarmControl (s : State) : State :=
  (s.issueWrite 0x01 [0x80]).setDev (s.dev.writeRange 0x01 [0x80])

/-- A state after INIT got the device handle (43_register_access.md R102). -/
@[irreducible] def State.afterDeviceReady (s : State) : State :=
  s.askDeviceReady.setHc true

/-- A state after INIT also registered the interrupt callback (43_register_access.md R102). -/
@[irreducible] def State.afterIrqLine (s : State) : State :=
  s.afterDeviceReady.askIrqSetup.setIrqEn true

@[simp] theorem State.afterAlarmControl_gs (s : State) : s.afterAlarmControl.gs = s.gs := by
  unfold State.afterAlarmControl; rfl
@[simp] theorem State.afterAlarmControl_hc (s : State) : s.afterAlarmControl.hc = s.hc := by
  unfold State.afterAlarmControl; rfl
@[simp] theorem State.afterAlarmControl_irqEn (s : State) : s.afterAlarmControl.irqEn = s.irqEn := by
  unfold State.afterAlarmControl; rfl
@[simp] theorem State.afterAlarmControl_workPending (s : State) :
    s.afterAlarmControl.workPending = s.workPending := by
  unfold State.afterAlarmControl; rfl
@[simp] theorem State.afterAlarmControl_alarmFired (s : State) : s.afterAlarmControl.alarmFired = s.alarmFired := by
  unfold State.afterAlarmControl; rfl
@[simp] theorem State.afterAlarmControl_hung (s : State) : s.afterAlarmControl.hung = s.hung := by
  unfold State.afterAlarmControl; rfl
@[simp] theorem State.afterAlarmControl_agenda (s : State) : s.afterAlarmControl.agenda = s.agenda := by
  unfold State.afterAlarmControl; rfl
@[simp] theorem State.afterAlarmControl_dev (s : State) : s.afterAlarmControl.dev = s.dev.writeRange 0x01 [0x80] := by
  unfold State.afterAlarmControl; rfl
@[simp] theorem State.afterAlarmControl_env (s : State) : s.afterAlarmControl.env = s.env.dropTransfer := by
  unfold State.afterAlarmControl; rfl
@[simp] theorem State.afterAlarmControl_trace (s : State) :
    s.afterAlarmControl.trace = .burstWrite 0x51 0x01 [0x80] s.transferAnswer :: s.trace := by
  unfold State.afterAlarmControl; rfl
theorem State.afterAlarmControl_answer (s : State) :
    s.afterAlarmControl.transferAnswer = (s.issueWrite 0x01 [0x80]).transferAnswer := by
  unfold State.afterAlarmControl; rfl
@[simp] theorem State.afterDeviceReady_gs (s : State) : s.afterDeviceReady.gs = s.gs := by
  unfold State.afterDeviceReady; rfl
@[simp] theorem State.afterDeviceReady_hc (s : State) : s.afterDeviceReady.hc = true := by
  unfold State.afterDeviceReady; rfl
@[simp] theorem State.afterDeviceReady_irqEn (s : State) : s.afterDeviceReady.irqEn = s.irqEn := by
  unfold State.afterDeviceReady; rfl
@[simp] theorem State.afterDeviceReady_workPending (s : State) : s.afterDeviceReady.workPending = s.workPending := by
  unfold State.afterDeviceReady; rfl
@[simp] theorem State.afterDeviceReady_alarmFired (s : State) : s.afterDeviceReady.alarmFired = s.alarmFired := by
  unfold State.afterDeviceReady; rfl
@[simp] theorem State.afterDeviceReady_hung (s : State) : s.afterDeviceReady.hung = s.hung := by
  unfold State.afterDeviceReady; rfl
@[simp] theorem State.afterDeviceReady_agenda (s : State) : s.afterDeviceReady.agenda = s.agenda := by
  unfold State.afterDeviceReady; rfl
@[simp] theorem State.afterDeviceReady_dev (s : State) : s.afterDeviceReady.dev = s.dev := by
  unfold State.afterDeviceReady; rfl
@[simp] theorem State.afterDeviceReady_env (s : State) : s.afterDeviceReady.env = s.env.dropDeviceReady := by
  unfold State.afterDeviceReady; rfl
@[simp] theorem State.afterDeviceReady_trace (s : State) :
    s.afterDeviceReady.trace = .deviceReady s.deviceReadyAnswer :: s.trace := by
  unfold State.afterDeviceReady; rfl
theorem State.afterDeviceReady_answer (s : State) :
    s.afterDeviceReady.irqSetupAnswer = s.askDeviceReady.irqSetupAnswer := by
  unfold State.afterDeviceReady; rfl
@[simp] theorem State.afterIrqLine_gs (s : State) : s.afterIrqLine.gs = s.gs := by
  unfold State.afterIrqLine State.afterDeviceReady; rfl
@[simp] theorem State.afterIrqLine_hc (s : State) : s.afterIrqLine.hc = true := by
  unfold State.afterIrqLine State.afterDeviceReady; rfl
@[simp] theorem State.afterIrqLine_irqEn (s : State) : s.afterIrqLine.irqEn = true := by
  unfold State.afterIrqLine State.afterDeviceReady; rfl
@[simp] theorem State.afterIrqLine_workPending (s : State) : s.afterIrqLine.workPending = s.workPending := by
  unfold State.afterIrqLine State.afterDeviceReady; rfl
@[simp] theorem State.afterIrqLine_alarmFired (s : State) : s.afterIrqLine.alarmFired = s.alarmFired := by
  unfold State.afterIrqLine State.afterDeviceReady; rfl
@[simp] theorem State.afterIrqLine_hung (s : State) : s.afterIrqLine.hung = s.hung := by
  unfold State.afterIrqLine State.afterDeviceReady; rfl
@[simp] theorem State.afterIrqLine_agenda (s : State) : s.afterIrqLine.agenda = s.agenda := by
  unfold State.afterIrqLine State.afterDeviceReady; rfl
@[simp] theorem State.afterIrqLine_dev (s : State) : s.afterIrqLine.dev = s.dev := by
  unfold State.afterIrqLine State.afterDeviceReady; rfl
@[simp] theorem State.afterIrqLine_env (s : State) : s.afterIrqLine.env = s.env.dropDeviceReady.dropIrqSetup := by
  unfold State.afterIrqLine State.afterDeviceReady; rfl
@[simp] theorem State.afterIrqLine_trace (s : State) :
    s.afterIrqLine.trace = .irqSetup s.askDeviceReady.irqSetupAnswer :: .deviceReady s.deviceReadyAnswer :: s.trace := by
  unfold State.afterIrqLine State.afterDeviceReady; rfl
theorem State.afterIrqLine_answer (s : State) :
    s.afterIrqLine.transferAnswer = s.askDeviceReady.askIrqSetup.transferAnswer := by
  unfold State.afterIrqLine State.afterDeviceReady; rfl

/-! ### The commands -/

/-- A pure command gives one and the same response in every state and does nothing else. -/
theorem exec_of_isPure (i : Instr) (hp : i.IsPure) :
      ∃ r : Response, (∀ s, exec i s = .next (s.emit (.response r))) := by
  cases i with
  | enc v => exact ⟨_, fun s => rfl⟩
  | dec v => exact ⟨_, fun s => rfl⟩
  | month a b c => exact ⟨_, fun s => rfl⟩
  | parse a b => exact ⟨_, fun s => rfl⟩
  | vtime a b => exact ⟨_, fun s => State.respondMask_eq _ _⟩
  | valarm a => exact ⟨_, fun s => State.respondMask_eq _ _⟩
  | vrange a b =>
    by_cases h : rangeOk a b = true
    · exact ⟨⟨.ok,.plain,0,[]⟩, fun s => by simp [exec, execVrange, h, State.respond]⟩
    · exact ⟨⟨.invalidParameter,.plain,0,[]⟩, fun s => by simp [exec, execVrange, h, State.respond, State.raise]⟩
  | init _ => cases hp
  | read _ _ _ => cases hp
  | write _ _ => cases hp
  | setalarm _ => cases hp

/-- Everything READ can do. -/
theorem exec_read_cases (p : Bool) (a n : Byte) (s t : State) (h : exec (.read p a n) s = .next t) :
   (¬ (p = true ∧ rangeOk a n = true) ∧ t = s.answered .invalidParameter .plain 0 [])
   ∨ (p = true ∧ rangeOk a n = true ∧ s.gs ≠ .ready ∧ t = s.answered .deviceSetupError .guard 0 [])
   ∨ (p = true ∧ rangeOk a n = true ∧ s.gs = .ready ∧
     ((∃ bytes, s.transferAnswer = .ok ∧ s.dev.readRange a.toNat n.toNat = some bytes
           ∧ t = (s.issueRead a.toNat n.toNat).answered .ok .plain 0 bytes)
      ∨ (s.transferAnswer = .fail ∧ t = (s.issueRead a.toNat n.toNat).answered .i2cReadError .plain 0 [])
      ∨ (s.transferAnswer = .hang ∧ t = (s.issueRead a.toNat n.toNat).setHung true))) := by
  simp only [exec, execRead] at h
  split at h
  · rename_i hc
    simp only [Bool.and_eq_true] at hc
    split at h
    · rename_i hg
      refine .inr (.inr ⟨hc.1, hc.2, hg, ?_⟩)
      rcases State.memRead_inversion s a.toNat n.toNat with ⟨b, h1, h2, h3⟩ | ⟨h1, h3⟩ | ⟨h1, h3⟩ | ⟨h1, h3⟩ <;>
        simp only [readTransfer, h3] at h
      · cases h; exact .inl ⟨b, h1, h2, rfl⟩
      · cases h
      · cases h; exact .inr (.inl ⟨h1, rfl⟩)
      · cases h; exact .inr (.inr ⟨h1, rfl⟩)
    · rename_i hg; cases h; exact .inr (.inl ⟨hc.1, hc.2, hg, rfl⟩)
  · rename_i hc; cases h; simp only [Bool.and_eq_true] at hc; exact .inl ⟨hc, rfl⟩

/-- Everything WRITE can do. -/
theorem exec_write_cases (a : Byte) (src : Source) (s t : State) (h : exec (.write a src) s = .next t) :
   ((∀ bs, src = .bytes bs → rangeOk a src.len = false) ∧ t = s.answered .invalidParameter .plain 0 [])
   ∨ (∃ bs, src = .bytes bs ∧ rangeOk a src.len = true ∧
     ((s.gs ≠ .ready ∧ t = s.answered .deviceSetupError .guard 0 [])
     ∨ (s.gs = .ready ∧
     ((s.transferAnswer = .ok ∧ s.dev.covers a.toNat bs.length = true
           ∧ t = ((s.issueWrite a.toNat bs).setDev (s.dev.writeRange a.toNat bs)).answered .ok .plain 0 [])
      ∨ (s.transferAnswer = .fail ∧ t = (s.issueWrite a.toNat bs).answered .i2cWriteError .plain 0 [])
      ∨ (s.transferAnswer = .hang ∧ t = (s.issueWrite a.toNat bs).setHung true))))) := by
  cases src with
  | null n => cases h; exact .inl ⟨(by intro bs hb; cases hb), rfl⟩
  | bytes bs =>
    simp only [exec, execWrite] at h
    split at h
    · rename_i hc
      refine .inr ⟨bs, rfl, hc, ?_⟩
      split at h
      · rename_i hg
        refine .inr ⟨hg, ?_⟩
        rcases s.memWrite_inversion a.toNat bs with ⟨h1, h2, h3⟩ | ⟨h1, h3⟩ | ⟨h1, h3⟩ | ⟨h1, h3⟩ <;>
          simp only [writeTransfer, h3] at h
        · cases h; exact .inl ⟨h1, h2, rfl⟩
        · cases h
        · cases h; exact .inr (.inl ⟨h1, rfl⟩)
        · cases h; exact .inr (.inr ⟨h1, rfl⟩)
      · rename_i hg; cases h; exact .inl ⟨hg, rfl⟩
    · rename_i hc; cases h; exact .inl ⟨fun _ _ => by simpa using hc, rfl⟩

/-- Everything SETALARM can do. -/
theorem exec_setalarm_cases (src : Source) (s t : State) (h : exec (.setalarm src) s = .next t) :
   (acceptedAlarm src = none ∧ t = s.answered .invalidParameter .plain 0 [])
   ∨ (∃ r, acceptedAlarm src = some r ∧
     ((s.gs ≠ .ready ∧ t = s.answered .deviceSetupError .guard 0 [])
     ∨ (s.gs = .ready ∧
      ((s.transferAnswer = .fail ∧ t = (s.issueWrite 0x01 [0x80]).answered .i2cWriteError .plain 0 [])
      ∨ (s.transferAnswer = .hang ∧ t = (s.issueWrite 0x01 [0x80]).setHung true)
      ∨ (s.transferAnswer = .ok ∧
         ((s.afterAlarmControl.transferAnswer = .ok
               ∧ t = ((s.afterAlarmControl.issueWrite 0x0B r.toBytes).setDev (s.afterAlarmControl.dev.writeRange 0x0B r.toBytes)).answered .ok .plain 0 [])
          ∨ (s.afterAlarmControl.transferAnswer = .fail
                ∧ t = (s.afterAlarmControl.issueWrite 0x0B r.toBytes).answered .i2cWriteError .plain 0 [])
          ∨ (s.afterAlarmControl.transferAnswer = .hang
                ∧ t = (s.afterAlarmControl.issueWrite 0x0B r.toBytes).setHung true))))))) := by
  simp only [exec, execSetalarm] at h
  cases ha : acceptedAlarm src with
  | none => simp only [ha] at h; cases h; exact .inl ⟨rfl, rfl⟩
  | some r =>
    simp only [ha] at h
    refine .inr ⟨r, rfl, ?_⟩
    split at h
    · rename_i hg
      refine .inr ⟨hg, ?_⟩
      rcases s.memWrite_inversion 0x01 [0x80] with ⟨h1, h2, h3⟩ | ⟨h1, h3⟩ | ⟨h1, h3⟩ | ⟨h1, h3⟩ <;>
          simp only [alarmControlWrite, Config.ctrlAddr, Config.alarmCtrlByte, h3] at h
      · refine .inr (.inr ⟨h1, ?_⟩)
        rcases State.memWrite_inversion s.afterAlarmControl 0x0B r.toBytes with ⟨g1, g2, g3⟩ | ⟨g1, g3⟩ | ⟨g1, g3⟩ | ⟨g1, g3⟩ <;>
          simp only [State.afterAlarmControl] at g3 <;> simp only [alarmFieldWrite, Config.alarmBase, g3] at h
        · cases h; exact .inl ⟨g1, by simp only [State.afterAlarmControl]; rfl⟩
        · cases h
        · cases h; exact .inr (.inl ⟨g1, by simp only [State.afterAlarmControl]; rfl⟩)
        · cases h; exact .inr (.inr ⟨g1, by simp only [State.afterAlarmControl]⟩)
      · cases h
      · cases h; exact .inl ⟨h1, rfl⟩
      · cases h; exact .inr (.inl ⟨h1, rfl⟩)
    · rename_i hg; cases h; exact .inl ⟨hg, rfl⟩

/-- A SETALARM whose control write was answered `ok` went on only because register `0x01` exists. -/
theorem exec_setalarm_control_covered (src : Source) (s t : State) (r : AlarmRecord) (h : exec (.setalarm src) s = .next t)
    (ha : acceptedAlarm src = some r) (hg : s.gs = .ready) (hok : s.transferAnswer = .ok) :
    s.dev.covers 0x01 1 = true := by
  simp only [exec, execSetalarm, ha, hg, if_true] at h
  rcases s.memWrite_inversion 0x01 [0x80] with ⟨_, h2, _⟩ | ⟨_, h3⟩ | ⟨h1, _⟩ | ⟨h1, _⟩
  · exact h2
  · simp only [alarmControlWrite, Config.ctrlAddr, Config.alarmCtrlByte, h3] at h; cases h
  · simp [hok] at h1
  · simp [hok] at h1

/-- Everything INIT can do. -/
theorem exec_init_cases (rec : Option TimeRecord) (s t : State) (h : exec (.init rec) s = .next t) :
   ((∀ r, rec = some r → timeMask r true ≠ 0) ∧ t = s.answered .invalidParameter .plain 0 [])
   ∨ (∃ r, rec = some r ∧ timeMask r true = 0 ∧
     ((s.deviceReadyAnswer = .fail ∧ t = (s.askDeviceReady.setGs .failed).answered .deviceSetupError .i2cDevice 0 [])
     ∨ (s.deviceReadyAnswer = .ok ∧
       ((s.afterDeviceReady.irqSetupAnswer = .fail
             ∧ t = (s.afterDeviceReady.askIrqSetup.setGs .failed).answered .deviceSetupError .irqLine 0 [])
       ∨ (s.afterDeviceReady.irqSetupAnswer = .ok ∧
         ((s.afterIrqLine.transferAnswer = .ok
               ∧ t = (((s.afterIrqLine.issueWrite 4 r.toBytes).setDev (s.dev.writeRange 4 r.toBytes)).setGs .ready).answered .ok .plain 0 [])
         ∨ (s.afterIrqLine.transferAnswer = .fail
               ∧ t = ((s.afterIrqLine.issueWrite 4 r.toBytes).setGs .failed).answered .i2cWriteError .plain 0 [])
         ∨ (s.afterIrqLine.transferAnswer = .hang
               ∧ t = (s.afterIrqLine.issueWrite 4 r.toBytes).setHung true))))))) := by
  cases rec with
  | none => cases h; exact .inl ⟨(by intro r hr; cases hr), rfl⟩
  | some r =>
    simp only [exec, execInit] at h
    split at h
    · rename_i hm
      refine .inr ⟨r, rfl, hm, ?_⟩
      cases hd : s.deviceReadyAnswer with
      | fail => simp only [initDevice, hd] at h; cases h; exact .inl ⟨rfl, rfl⟩
      | ok =>
        simp only [initDevice, hd] at h
        refine .inr ⟨rfl, ?_⟩
        cases hi : s.afterDeviceReady.irqSetupAnswer with
        | fail =>
          have hi' := hi
          simp only [State.afterDeviceReady] at hi'
          simp only [initIrqLine, hi'] at h; cases h; exact .inl ⟨rfl, by simp only [State.afterDeviceReady]; rfl⟩
        | ok =>
          have hi' := hi
          simp only [State.afterDeviceReady] at hi'
          simp only [initIrqLine, hi'] at h
          refine .inr ⟨rfl, ?_⟩
          rcases State.memWrite_inversion s.afterIrqLine 4 r.toBytes with ⟨g1, g2, g3⟩ | ⟨g1, g3⟩ | ⟨g1, g3⟩ | ⟨g1, g3⟩ <;>
            simp only [State.afterIrqLine, State.afterDeviceReady] at g3 <;> simp only [initWrite, Config.timeBase, g3] at h
          · cases h; exact .inl ⟨g1, by simp only [State.afterIrqLine, State.afterDeviceReady]; rfl⟩
          · cases h
          · cases h; exact .inr (.inl ⟨g1, by simp only [State.afterIrqLine, State.afterDeviceReady]; rfl⟩)
          · cases h; exact .inr (.inr ⟨g1, by simp only [State.afterIrqLine, State.afterDeviceReady]⟩)
    · rename_i hm; cases h; exact .inl ⟨fun r' hr => by cases hr; exact hm, rfl⟩

/-- Everything the deferred run can do. -/
theorem stepRun_cases (s t : State) (h : stepRun s = .next t) :
   (∃ bytes, s.transferAnswer = .ok ∧ s.dev.readRange 0 18 = some bytes
         ∧ t = ((((s.setWorkPending false).issueRead 0 18).emit (.snapshot bytes)).setAlarmFired true))
   ∨ (s.transferAnswer = .fail ∧ t = ((s.setWorkPending false).issueRead 0 18).setAlarmFired true)
   ∨ (s.transferAnswer = .hang ∧ t = ((s.setWorkPending false).issueRead 0 18).setHung true) := by
  unfold stepRun at h
  rcases State.memRead_inversion (s.setWorkPending false) 0 18 with ⟨b, h1, h2, h3⟩ | ⟨h1, h3⟩ | ⟨h1, h3⟩ | ⟨h1, h3⟩ <;>
    simp only [Config.regSpace, h3] at h
  · cases h; exact .inl ⟨b, h1, h2, rfl⟩
  · cases h
  · cases h; exact .inr (.inl ⟨h1, rfl⟩)
  · cases h; exact .inr (.inr ⟨h1, rfl⟩)

/-! ### A step -/

/-- What a step does: the next event, or an idle step. -/
theorem step_cases (s t : State) (h : step s = .next t) :
  (s.agenda = [] ∧ takeRun s = .next t)
        ∨ (∃ e rest, s.agenda = e :: rest ∧ takeEvent e (s.setAgenda rest) = .next t) := by
  unfold step nextStep at h
  split at h
  · rename_i ha; exact .inl ⟨ha, h⟩
  · rename_i e rest ha; exact .inr ⟨e, rest, ha, h⟩

/-- Everything presenting a command can do. -/
theorem acceptCommand_cases (w din) (s t : State) (h : acceptCommand w din s = .next t) :
   (s.hung = true
         ∧ t = s) ∨ (s.hung = false ∧ ((∃ i, decode w din = .instr i ∧ exec i s = .next t)
        ∨ (decode w din = .illegalWord ∧ t = s.answered .illegalCommand .plain 0 []))) := by
  unfold acceptCommand at h
  split at h
  · rename_i hh; cases h; exact .inl ⟨hh, rfl⟩
  · rename_i hh
    refine .inr ⟨by simpa using hh, ?_⟩
    split at h
    · rename_i i hd; exact .inl ⟨i, hd, h⟩
    · rename_i hd; cases h; exact .inr ⟨hd, rfl⟩
    · cases h

/-- Everything the turn of the deferred-work runner can do. -/
theorem takeRun_cases (s t : State) (h : takeRun s = .next t) :
   (s.workPending = true ∧ s.hung = false ∧ stepRun s = .next t) ∨ (¬ (s.workPending = true ∧ s.hung = false)
         ∧ t = s) := by
  unfold takeRun at h
  split at h
  · rename_i hc; simp at hc; exact .inl ⟨hc.1, hc.2, h⟩
  · rename_i hc; simp at hc; cases h; exact .inr ⟨by simpa using hc, rfl⟩

end Sys2Proof.Machine
end

