-- ==== Sys2Proof/Laws/PerInstr.lean ====
section
/-! SUPPORT. Facts about every command as syntax, one lemma per constructor: the row its word belongs to (RowMatch), and
how many operand bytes come with it (OperandCount). -/

namespace Sys2Proof.Laws.RowMatch

/-- The word of a command belongs to the command's own row of the opcode map (30_encoding.md R57). -/
def Statement (i : Instr) : Prop := opOf (encodeWord i) = some i.op

theorem enc (v : Byte) : Statement (.enc v) := by
  rw [Statement, encodeWord, opOf_of_enc _ (by simp)]
  simp [Instr.op]

theorem dec (b : Byte) : Statement (.dec b) := by
  rw [Statement, encodeWord, opOf_of_dec _ (by simp)]
  simp [Instr.op]

theorem month (c0 c1 c2 : Byte) : Statement (.month c0 c1 c2) := by
  rw [Statement, encodeWord, opOf_of_month _ (by simp)]
  simp [Instr.op]

theorem parse (date time : List Byte) : Statement (.parse date time) := by
  rw [Statement, encodeWord, opOf_of_parse _ (by simp)]
  simp [Instr.op]

theorem vtime (init : Bool) (record : TimeRecord) : Statement (.vtime init record) := by
  rw [Statement, encodeWord, opOf_of_vtime _ (by simp)]
  cases init <;> simp [Instr.op]

theorem valarm (record : AlarmRecord) : Statement (.valarm record) := by
  rw [Statement, encodeWord, opOf_of_valarm _ (by simp)]
  simp [Instr.op]

theorem vrange (start len : Byte) : Statement (.vrange start len) := by
  rw [Statement, encodeWord, opOf_of_vrange _ (by simp)]
  simp [Instr.op]

theorem init (record : Option TimeRecord) : Statement (.init record) := by
  rw [Statement, encodeWord, opOf_of_init _ (by simp)]
  simp [Instr.op]

theorem read (present : Bool) (start len : Byte) : Statement (.read present start len) := by
  rw [Statement, encodeWord, opOf_of_read _ (by simp)]
  simp [Instr.op]

theorem write (start : Byte) (src : Source) : Statement (.write start src) := by
  rw [Statement, encodeWord, opOf_of_write _ (by simp)]
  simp [Instr.op]

theorem setalarm (src : Source) : Statement (.setalarm src) := by
  rw [Statement, encodeWord, opOf_of_setalarm _ (by simp)]
  simp [Instr.op]

end Sys2Proof.Laws.RowMatch

namespace Sys2Proof.Laws.OperandCount

/-- A well-formed command comes with exactly the operand bytes its word asks for (30_encoding.md R58). -/
def Statement (i : Instr) : Prop := i.WellFormed = true → (encodeDin i).length = dlen (encodeWord i)

/-- `DLEN` of a command's word, from its row, `P` and `N`. -/
theorem dlen_encodeWord (i : Instr) (h : RowMatch.Statement i) :
    dlen (encodeWord i) = dlenOf i.op (pField (encodeWord i)) (nField (encodeWord i)) := by
  unfold RowMatch.Statement at h
  simp only [dlen, h]

/-- The operand bytes of a buffer argument are as many as its `P` and `N` say. -/
theorem source_din_length (src : Source) (h : src.WellFormed = true) :
    src.din.length = if src.present then src.len.toNat else 0 := by
  cases src with
  | null n => rfl
  | bytes bs =>
    simp only [Source.WellFormed, decide_eq_true_eq] at h
    simp only [Source.din, Source.present, Source.len, BitVec.toNat_ofNat, if_true]
    omega

theorem enc (v : Byte) : Statement (.enc v) := by
  intro _
  rw [dlen_encodeWord _ (RowMatch.enc v)]
  rfl

theorem dec (b : Byte) : Statement (.dec b) := by
  intro _
  rw [dlen_encodeWord _ (RowMatch.dec b)]
  rfl

theorem month (c0 c1 c2 : Byte) : Statement (.month c0 c1 c2) := by
  intro _
  rw [dlen_encodeWord _ (RowMatch.month c0 c1 c2)]
  rfl

theorem parse (date time : List Byte) : Statement (.parse date time) := by
  intro h
  rw [dlen_encodeWord _ (RowMatch.parse date time)]
  simp only [Instr.WellFormed, Bool.and_eq_true, decide_eq_true_eq] at h
  simp only [Instr.op, dlenOf, encodeWord, encodeDin, nField_packWord, List.length_append, BitVec.toNat_ofNat]
  omega

theorem vtime (init : Bool) (record : TimeRecord) : Statement (.vtime init record) := by
  intro _
  rw [dlen_encodeWord _ (RowMatch.vtime init record)]
  rfl

theorem valarm (record : AlarmRecord) : Statement (.valarm record) := by
  intro _
  rw [dlen_encodeWord _ (RowMatch.valarm record)]
  rfl

theorem vrange (start len : Byte) : Statement (.vrange start len) := by
  intro _
  rw [dlen_encodeWord _ (RowMatch.vrange start len)]
  rfl

theorem init (record : Option TimeRecord) : Statement (.init record) := by
  intro _
  rw [dlen_encodeWord _ (RowMatch.init record)]
  cases record <;> simp [Instr.op, dlenOf, encodeWord, encodeDin, TimeRecord.toBytes]

theorem read (present : Bool) (start len : Byte) : Statement (.read present start len) := by
  intro _
  rw [dlen_encodeWord _ (RowMatch.read present start len)]
  rfl

theorem write (start : Byte) (src : Source) : Statement (.write start src) := by
  intro h
  rw [dlen_encodeWord _ (RowMatch.write start src)]
  simpa [Instr.op, dlenOf, encodeWord, encodeDin] using source_din_length src h

theorem setalarm (src : Source) : Statement (.setalarm src) := by
  intro h
  rw [dlen_encodeWord _ (RowMatch.setalarm src)]
  simpa [Instr.op, dlenOf, encodeWord, encodeDin] using source_din_length src h

end Sys2Proof.Laws.OperandCount
end

