-- ==== Sys2Proof/Tests/Slice0.lean ====
section
/-! SUPPORT. The model's own tests: ill-formed terms, decoding of words written out from the spec, one-step vectors of
spec/95_test_vectors.md, and for every statement with hypotheses a state and operands that meet them together. -/

namespace Sys2Proof.Tests

open Sys2Proof.Machine

/-! ### Small states and checks -/

/-- The register file of 95_test_vectors.md part 3: register `i` holds `0xE0 + i`. -/
def demoDev : Memory := (List.range 18).map fun a => (a, BitVec.ofNat 8 (0xE0 + a))

/-- A block after reset with that register file. -/
def fresh : State where
  gs := .uninitialized
  hc := false
  irqEn := false
  workPending := false
  alarmFired := false
  hung := false
  dev := demoDev
  env := { deviceReady := [], irqSetup := [], transfer := [], draws := 0 }
  agenda := []
  trace := []

/-- A block that INIT has made `Ready`, with the next answers of the transport. -/
def ready (answers : List TransferAnswer) : State :=
  { fresh with
    gs := .ready
    hc := true
    irqEn := true
    env := { deviceReady := [], irqSetup := [], transfer := answers, draws := 0 } }

/-- A block before INIT, with the next answers to its three questions. -/
def unready (dev irq : SetupAnswer) (transfer : TransferAnswer) : State :=
  { fresh with env := { deviceReady := [dev], irqSetup := [irq], transfer := [transfer], draws := 0 } }

/-- A `Ready` block with a queued item. -/
def queued (answers : List TransferAnswer) : State := (ready answers).setWorkPending true

/-- A hung block. -/
def stuck : State := (ready []).setHung true

/-- The host presents one command next. -/
def present (s : State) (cw : CmdWord) (din : List Byte) : State := s.setAgenda [.command cw din]

/-- One thing happens next. -/
def happen (s : State) (e : Event) : State := s.setAgenda [e]

/-- A step gives a next state with a property. -/
def nextIs (r : Result) (p : State → Bool) : Bool :=
  match r with
  | .next s => p s
  | .fault _ => false
  | .refused _ => false

/-- The last thing that left the block is a response with this `RSP` and this `DOUT`. -/
def answers (rsp : RspWord) (dout : List Byte) (s : State) : Bool :=
  match s.trace with
  | .response r :: _ => r.word == rsp && r.dout == dout
  | _ => false

/-- The contents of the registers from an address on. -/
def regs (s : State) (start len : Nat) : Option (List Byte) := s.dev.readRange start len

/-- The record of the source's end-to-end example E10. -/
def goodTime : TimeRecord := ⟨0x00, 0x00, 0x12, 0x15, 0x00, 0x07, 0x23⟩

/-- Every field of a time record at its upper bound (95_test_vectors.md 2.5). -/
def maxTime : TimeRecord := ⟨0x59, 0x59, 0x23, 0x31, 0x00, 0x12, 0x99⟩

/-- Every field of a time record at its lower bound for INIT (95_test_vectors.md 2.5). -/
def minTime : TimeRecord := ⟨0x00, 0x00, 0x00, 0x01, 0x00, 0x01, 0x01⟩

/-- The alarm record of example E9. -/
def goodAlarm : AlarmRecord := ⟨0x30, 0x45, 0x07, 0x15, 0x00⟩

/-- Every alarm field at its upper bound (95_test_vectors.md 2.6). -/
def maxAlarm : AlarmRecord := ⟨0x59, 0x59, 0x23, 0x31, 0x00⟩

/-- Every alarm field at its lower bound (95_test_vectors.md 2.6). -/
def minAlarm : AlarmRecord := ⟨0x00, 0x00, 0x00, 0x01, 0x00⟩

/-- The date string "Jul 15 2023". -/
def dateBytes : List Byte := [0x4A, 0x75, 0x6C, 0x20, 0x31, 0x35, 0x20, 0x32, 0x30, 0x32, 0x33]

/-- The shortest well-formed date string, "Jul 1 23". -/
def shortDate : List Byte := [0x4A, 0x75, 0x6C, 0x20, 0x31, 0x20, 0x32, 0x33]

/-- The time string "12:34:56". -/
def timeBytes : List Byte := [0x31, 0x32, 0x3A, 0x33, 0x34, 0x3A, 0x35, 0x36]

/-! ### Ill-formed terms -/

theorem test_wf_refuses_long_date :
    Instr.WellFormed (.parse (List.replicate 256 0x20) timeBytes) = false := by
  simp only [Instr.WellFormed, List.length_replicate]
  decide

theorem test_wf_refuses_short_time :
    Instr.WellFormed (.parse dateBytes (timeBytes.take 7)) = false := by decide

theorem test_wf_refuses_long_write :
    Instr.WellFormed (.write 0 (.bytes (List.replicate 256 0x00))) = false := by
  simp only [Instr.WellFormed, Source.WellFormed, List.length_replicate]
  decide

theorem test_wf_refuses_long_alarm :
    Instr.WellFormed (.setalarm (.bytes (List.replicate 256 0x00))) = false := by
  simp only [Instr.WellFormed, Source.WellFormed, List.length_replicate]
  decide

theorem test_wf_accepts_limits :
    (Instr.parse (List.replicate 255 0x20) timeBytes).WellFormed
      ∧ (Instr.write 0 (.bytes (List.replicate 255 0x00))).WellFormed := by
  simp only [Instr.WellFormed, Source.WellFormed, List.length_replicate]
  decide

/-! ### Decoding: words written out from the spec (95_test_vectors.md, 30_encoding.md R57, R63) -/

theorem test_decode_enc :
    decode 0x10000C00 []
      = .instr (.enc 12) := by decide

theorem test_decode_dec :
    decode 0x20005900 []
      = .instr (.dec 0x59) := by decide

theorem test_decode_month :
    decode 0x38000003 [0x44, 0x65, 0x63]
      = .instr (.month 0x44 0x65 0x63) := by decide

theorem test_decode_parse :
    decode 0x4800000B [0x4A, 0x75, 0x6C, 0x20, 0x31, 0x35, 0x20, 0x32, 0x30, 0x32, 0x33, 0x31, 0x32, 0x3A, 0x33, 0x34, 0x3A, 0x35, 0x36]
      = .instr (.parse dateBytes timeBytes) := by decide

theorem test_decode_vtime :
    decode 0x58000007 [0x00, 0x00, 0x12, 0x15, 0x00, 0x07, 0x23]
      = .instr (.vtime false goodTime) := by decide

theorem test_decode_vtime_i :
    decode 0x58000107 [0x00, 0x00, 0x12, 0x15, 0x00, 0x07, 0x23]
      = .instr (.vtime true goodTime) := by decide

theorem test_decode_valarm :
    decode 0x68000005 [0x30, 0x45, 0x07, 0x15, 0x00]
      = .instr (.valarm goodAlarm) := by decide

theorem test_decode_vrange :
    decode 0x7000FA0A []
      = .instr (.vrange 250 10) := by decide

theorem test_decode_init :
    decode 0x88000007 [0x00, 0x00, 0x12, 0x15, 0x00, 0x07, 0x23]
      = .instr (.init (some goodTime)) := by decide

theorem test_decode_init_null :
    decode 0x80000007 []
      = .instr (.init none) := by decide

theorem test_decode_read :
    decode 0x98000407 []
      = .instr (.read true 0x04 7) := by decide

theorem test_decode_read_null :
    decode 0x90002000 []
      = .instr (.read false 0x20 0) := by decide

theorem test_decode_write :
    decode 0xA8000103 [0x34, 0x56, 0x78]
      = .instr (.write 0x01 (.bytes [0x34, 0x56, 0x78])) := by decide

theorem test_decode_write_null :
    decode 0xA0000103 []
      = .instr (.write 0x01 (.null 3)) := by decide

theorem test_decode_setalarm :
    decode 0xB8000005 [0x30, 0x45, 0x07, 0x15, 0x00]
      = .instr (.setalarm (.bytes goodAlarm.toBytes)) := by decide

theorem test_decode_setalarm_null :
    decode 0xB0000005 []
      = .instr (.setalarm (.null 5)) := by decide

/-- Words of 95_test_vectors.md 2.12. -/
theorem test_decode_illegal_words :
    decode 0x00000000 [] = .illegalWord ∧ decode 0xFFFFFFFF [] = .illegalWord
      ∧ decode 0xC0000000 [] = .illegalWord ∧ decode 0x18000C00 [] = .illegalWord
      ∧ decode 0x30000003 [] = .illegalWord ∧ decode 0x88000006 [] = .illegalWord
      ∧ decode 0x58000207 [] = .illegalWord ∧ decode 0x10010000 [] = .illegalWord := by decide

theorem test_decode_refuses_other_length :
    decode 0xA8000103 [0x34, 0x56] = .dinLength ∧ decode 0x10000C00 [0x00] = .dinLength := by decide

theorem test_tableWord_reads_din_above_bit_32 :
    decodeTableWord 32 0x98000407 = some rdtime
      ∧ decodeTableWord 56 0x785634A8000103 = some (.write 0x01 (.bytes [0x34, 0x56, 0x78]))
      ∧ decodeTableWord 32 0xA8000103 = some (.write 0x01 (.bytes [0, 0, 0])) := by decide

/-! ### One step per command (95_test_vectors.md part 2) -/

theorem test_enc_255 :
    nextIs (step (present fresh 0x1000FF00 []))
      (answers 0x0095 []) = true := by decide

theorem test_enc_159 :
    nextIs (step (present fresh 0x10009F00 []))
      (answers 0x00F9 []) = true := by decide

theorem test_dec_ff :
    nextIs (step (present fresh 0x2000FF00 []))
      (answers 0x01A5 []) = true := by decide

theorem test_dec_59 :
    nextIs (step (present fresh 0x20005900 []))
      (answers 0x003B []) = true := by decide

theorem test_month_dec :
    nextIs (step (present fresh 0x38000003 [0x44, 0x65, 0x63]))
      (answers 0x000C []) = true := by decide

theorem test_month_lower_case :
    nextIs (step (present fresh 0x38000003 [0x6A, 0x61, 0x6E]))
      (answers 0x0000 []) = true := by decide

theorem test_parse_short_date :
    nextIs (step (present fresh 0x48000008 [0x4A, 0x75, 0x6C, 0x20, 0x31, 0x20, 0x32, 0x33, 0x31, 0x32, 0x3A, 0x33, 0x34, 0x3A, 0x35, 0x36]))
      (answers 0x0000 [0x56, 0x34, 0x12, 0x01, 0x00, 0x07, 0x23]) = true := by decide

theorem test_parse_unknown_month :
    nextIs (step (present fresh 0x4800000B [0x58, 0x79, 0x7A, 0x20, 0x31, 0x35, 0x20, 0x32, 0x30, 0x32, 0x33, 0x31, 0x32, 0x3A, 0x30, 0x30, 0x3A, 0x30, 0x30]))
      (answers 0x0000 [0x00, 0x00, 0x12, 0x15, 0x00, 0x00, 0x23]) = true := by decide

theorem test_vtime_all_wrong_but_minutes :
    nextIs (step (present fresh 0x58000007 [0x60, 0x00, 0x24, 0x00, 0x01, 0x13, 0x9A]))
      (answers 0x107D []) = true := by decide

theorem test_vtime_i_year_zero :
    nextIs (step (present fresh 0x58000107 [0x00, 0x00, 0x00, 0x01, 0x00, 0x01, 0x00]))
      (answers 0x1040 []) = true := by decide

theorem test_valarm_day_zero :
    nextIs (step (present fresh 0x68000005 [0x00, 0x00, 0x00, 0x00, 0x00]))
      (answers 0x1008 []) = true := by decide

theorem test_valarm_all_wrong :
    nextIs (step (present fresh 0x68000005 [0x60, 0x60, 0x24, 0x32, 0x01]))
      (answers 0x101F []) = true := by decide

theorem test_vrange_no_wrap :
    nextIs (step (present fresh 0x7000FA0A []))
      (answers 0x1000 []) = true := by decide

theorem test_vrange_last_byte :
    nextIs (step (present fresh 0x70001101 []))
      (answers 0x0000 []) = true := by decide

theorem test_init_ok :
    nextIs (step (present (unready .ok .ok .ok) 0x88000007 [0x00, 0x00, 0x12, 0x15, 0x00, 0x07, 0x23]))
      (fun s => answers 0x0000 [] s && decide (s.gs = .ready)
      && regs s 3 9 == some [0xE3, 0x00, 0x00, 0x12, 0x15, 0x00, 0x07, 0x23, 0xEB]) = true := by decide

theorem test_init_irq_fail :
    nextIs (step (present (unready .ok .fail .ok) 0x88000007 [0x00, 0x00, 0x12, 0x15, 0x00, 0x07, 0x23]))
      (fun s => answers 0x2200 [] s && decide (s.gs = .failed) && s.hc && !s.irqEn) = true := by decide

theorem test_read_whole_space :
    nextIs (step (present (ready [.ok]) 0x98000012 []))
      (answers 0x0000 [0xE0, 0xE1, 0xE2, 0xE3, 0xE4, 0xE5, 0xE6, 0xE7, 0xE8, 0xE9, 0xEA, 0xEB, 0xEC, 0xED, 0xEE, 0xEF, 0xF0, 0xF1]) = true := by decide

theorem test_write_three_bytes :
    nextIs (step (present (ready [.ok]) 0xA8000103 [0x34, 0x56, 0x78]))
      (fun s => answers 0x0000 [] s && regs s 0 5 == some [0xE0, 0x34, 0x56, 0x78, 0xE4]) = true := by decide

theorem test_write_fail :
    nextIs (step (present (ready [.fail]) 0xA8000103 [0x34, 0x56, 0x78]))
      (fun s => answers 0x3000 [] s && s.dev == demoDev) = true := by decide

theorem test_setalarm_ok :
    nextIs (step (present (ready [.ok, .ok]) 0xB8000005 [0x30, 0x45, 0x07, 0x15, 0x00]))
      (fun s => answers 0x0000 [] s && regs s 1 1 == some [0x80]
      && regs s 10 7 == some [0xEA, 0x30, 0x45, 0x07, 0x15, 0x00, 0xF0]) = true := by decide

theorem test_setalarm_half_done :
    nextIs (step (present (ready [.ok, .fail]) 0xB8000005 [0x30, 0x45, 0x07, 0x15, 0x00]))
      (fun s => answers 0x3000 [] s && regs s 1 1 == some [0x80]
      && regs s 11 5 == some [0xEB, 0xEC, 0xED, 0xEE, 0xEF]) = true := by decide

theorem test_illegal_word :
    nextIs (step (present fresh 0x00000000 []))
      (fun s => answers 0xF000 [] s && s.dev == demoDev) = true := by decide

theorem test_read_hang_gives_no_response :
    nextIs (step (present (ready [.hang]) 0x98000407 [])) (fun s => s.hung && s.responses == 0) = true := by decide

theorem test_hung_block_takes_no_command :
    nextIs (step (present stuck 0x10003B00 [])) (fun s => s.hung && s.trace.isEmpty) = true := by decide

theorem test_edge_then_status_still_clear :
    nextIs (step (happen (ready []) .edge)) (fun s => s.workPending && !s.statusAlarmFired) = true := by decide

theorem test_edge_without_callback_is_lost :
    nextIs (step (happen fresh .edge)) (fun s => !s.workPending) = true := by decide

theorem test_run_snapshot_and_latch :
    nextIs (step (happen (queued [.ok]) .run))
      (fun s => s.alarmFired && !s.workPending && s.trace.head? == some (.snapshot (demoDev.map Prod.snd))) = true := by decide

theorem test_run_hang_leaves_latch :
    nextIs (step (happen (queued [.hang]) .run)) (fun s => !s.alarmFired && s.hung) = true := by decide

theorem test_clear :
    nextIs (step (happen ((ready []).setAlarmFired true) .clear)) (fun s => !s.alarmFired && s.irqEn) = true := by decide

theorem test_reset_ends_a_hang_and_keeps_device :
    nextIs (step (happen stuck .reset)) (fun s => decide (s.gs = .uninitialized) && !s.hung && s.dev == demoDev) = true := by decide

theorem test_first_step_after_reset_runs_placed_word :
    nextIs (step (State.reset.withFetchWord 32 0x10000C00)) (answers 0x0012 []) = true := by decide

/-! ### The hypotheses of the statements can be met -/

theorem test_hyp_DecodeOfEncodeGivesCommand :
    (Instr.parse (List.replicate 255 0x20) timeBytes).WellFormed = true
      ∧ (Instr.parse [] timeBytes).WellFormed = true
      ∧ (Instr.setalarm (.bytes (List.replicate 255 0x00))).WellFormed = true
      ∧ (Instr.write 0xFF (.bytes [])).WellFormed = true := by
  simp only [Instr.WellFormed, Source.WellFormed, List.length_replicate]
  decide

theorem test_hyp_DecodedWordsEncodeBack :
    decode 0x98000407 [] = .instr rdtime := by decide

theorem test_hyp_OpcodeMapMatchesByMask :
    ∃ r, r ∈ opcodeRows ∧ (0x10000C00 : CmdWord) &&& r.mask = r.pattern := ⟨⟨.enc, 0x1, 0x10000000, 0xFFFF00FF⟩, by decide, by decide⟩

theorem test_hyp_IllegalWordsAreAnswered :
    (Claims.IllegalWord 0x10010000 ∧ fresh.hung = false
        ∧ (present fresh 0x10010000 []).agenda = .command 0x10010000 [] :: [])
      ∧ ¬ Claims.IllegalWord 0xB80000FF ∧ (List.replicate 255 (0 : Byte)).length = dlen 0xB80000FF := by
  refine ⟨⟨by simp [Claims.IllegalWord], by decide, by decide⟩, by simp [Claims.IllegalWord], ?_⟩
  rw [show dlen 0xB80000FF = 255 by decide, List.length_replicate]

theorem test_hyp_OperandByteCounts :
    fresh.hung = false ∧ (present fresh 0xA8000103 []).agenda = .command 0xA8000103 [] :: []
      ∧ ([] : List Byte).length ≠ dlen 0xA8000103 := by decide

theorem test_hyp_StepRunsDecodedCommand :
    fresh.hung = false ∧ (present fresh 0x98000407 []).agenda = .command 0x98000407 [] :: []
      ∧ decode 0x98000407 [] = .instr rdtime := by decide

theorem test_hyp_PlacedWordRunsNext :
    decodeTableWord 32 0x98000407 = some rdtime := by decide

theorem test_hyp_ResetValues :
    17 < 18 ∧ 18 ≤ 18 := by decide

theorem test_hyp_ResetKeepsDevice :
    (happen stuck .reset).agenda = .reset :: [] := by decide

theorem test_ready_inv :
    (queued [.ok]).Inv := ⟨by decide, by decide, by decide, by decide, by decide⟩

theorem test_hyp_EveryStepKeepsInvariant :
    (happen (queued [.ok]) .run).Inv ∧ ∃ t, step (happen (queued [.ok]) .run) = .next t := 
  ⟨⟨by decide, by decide, by decide, by decide, by decide⟩, _, rfl⟩

theorem test_hyp_MachineNeverStops :
    (present (queued [.ok]) 0x98000407 []).Inv ∧ (present (queued [.ok]) 0x98000407 []).AgendaOk := 
  ⟨⟨by decide, by decide, by decide, by decide, by decide⟩, by
    simp only [State.AgendaOk, present, State.setAgenda, List.mem_singleton]
    rintro e rfl
    exact (by decide : ([] : List Byte).length = dlen 0x98000407)⟩

theorem test_hyp_TransfersStayInRegisterSpace :
    (∀ o ∈ ((queued [.ok]).issueRead 0 18).trace, o.InBounds)
      ∧ ∃ t, step (happen ((queued [.ok, .ok]).issueRead 0 18) .run) = .next t := 
  ⟨by simp [State.issueRead, State.emit, State.setEnv, queued, ready, fresh, State.setWorkPending, Output.InBounds,
    Config.chipAddr], _, rfl⟩

theorem test_hyp_HungBlockTakesOnlyClearAndReset :
    stuck.hung = true ∧ (present stuck 0x10000C00 []).agenda = .command 0x10000C00 [] :: []
      ∧ (happen stuck .edge).agenda = .edge :: [] ∧ (happen stuck .run).agenda = .run :: []
      ∧ stuck.agenda = [] ∧ (happen stuck .clear).agenda = .clear :: [] ∧ (happen stuck .reset).agenda = .reset :: [] := by decide

theorem test_hyp_HungTransferNeverResponds_read :
    (ready [.hang]).dev.wf ∧ Claims.InRange (0x11 : Byte).toNat (1 : Byte).toNat ∧ (ready [.hang]).gs = .ready
      ∧ (ready [.hang]).transferAnswer = .hang := by
  unfold Claims.InRange
  decide

theorem test_hyp_HungTransferNeverResponds_write :
    (ready [.hang]).dev.wf ∧ Claims.InRange (0x00 : Byte).toNat (List.replicate 18 (0 : Byte)).length
      ∧ (ready [.hang]).gs = .ready ∧ (ready [.hang]).transferAnswer = .hang := by
  unfold Claims.InRange
  decide

theorem test_hyp_HungTransferNeverResponds_init :
    (unready .ok .ok .hang).dev.wf ∧ timeMask maxTime true = 0 ∧ (unready .ok .ok .hang).deviceReadyAnswer = .ok
      ∧ (unready .ok .ok .hang).askDeviceReady.irqSetupAnswer = .ok
      ∧ (unready .ok .ok .hang).askDeviceReady.askIrqSetup.transferAnswer = .hang := by decide

theorem test_hyp_HungTransferNeverResponds_setalarm :
    alarmMask maxAlarm = 0 ∧ (ready [.hang]).gs = .ready ∧ (ready [.hang]).transferAnswer = .hang
      ∧ (ready [.ok, .hang]).gs = .ready ∧ (ready [.ok, .hang]).transferAnswer = .ok
      ∧ ((ready [.ok, .hang]).issueWrite 0x01 [0x80]).transferAnswer = .hang ∧ (ready [.ok, .hang]).dev.wf := by decide

theorem test_hyp_HungTransferNeverResponds_after :
    stuck.dev.wf ∧ stuck.hung = true ∧ (present stuck 0x10000C00 []).agenda = .command 0x10000C00 [] :: []
      ∧ (happen stuck .run).agenda = .run :: [] := by decide

theorem test_hyp_EncAnswersTruncatedBcd :
    (99 : Byte).toNat ≤ 99 ∧ 100 ≤ (100 : Byte).toNat ∧ (159 : Byte).toNat ≤ 159 := by decide

theorem test_hyp_CodecRoundTrips :
    (99 : Byte).toNat ≤ 99 ∧ bcdValid 0x99 = true ∧ bcdValid 0x00 = true ∧ 100 ≤ (100 : Byte).toNat
      ∧ (159 : Byte).toNat ≤ 159 ∧ 160 ≤ (160 : Byte).toNat := by decide

theorem test_hyp_DecAnswersDigitSum :
    Claims.IsBcd 0x99 ∧ ¬ Claims.IsBcd 0x9A ∧ ¬ Claims.IsBcd 0xA0 := by
  unfold Claims.IsBcd
  decide

theorem test_hyp_ParseBuildsTheRecord :
    wfDate shortDate = true ∧ wfDate dateBytes = true ∧ wfTime timeBytes = true := by decide

theorem test_hyp_ParseOfIllFormedIsAFunction :
    ¬ (wfDate (dateBytes.take 7) = true ∧ wfTime timeBytes = true) ∧ ¬ (wfDate [] = true ∧ wfTime timeBytes = true) := by decide

theorem test_hyp_PureCommandsIgnoreState :
    (Instr.vrange 255 255).IsPure ∧ (Instr.parse [] timeBytes).IsPure ∧ stuck.hung = true
      ∧ (present stuck 0x10000C00 []).agenda = .command 0x10000C00 [] :: [] := ⟨trivial, trivial, by decide, by decide⟩

theorem test_hyp_VtimeAnswersItsMask :
    timeMask maxTime true = 0 ∧ timeMask minTime true = 0
      ∧ timeMask ⟨0x60, 0x60, 0x24, 0x32, 0x01, 0x13, 0x00⟩ true = 0x7F := by decide

theorem test_hyp_ValarmAnswersItsMask :
    alarmMask maxAlarm = 0 ∧ alarmMask minAlarm = 0 ∧ alarmMask ⟨0x5A, 0x60, 0x24, 0x00, 0x01⟩ = 0x1F := by decide

theorem test_hyp_VrangeAnswersBounds :
    Claims.InRange (0 : Byte).toNat (18 : Byte).toNat ∧ Claims.InRange (0x11 : Byte).toNat (1 : Byte).toNat
      ∧ ¬ Claims.InRange (0x12 : Byte).toNat (1 : Byte).toNat ∧ ¬ Claims.InRange (0 : Byte).toNat (0 : Byte).toNat
      ∧ ¬ Claims.InRange (250 : Byte).toNat (10 : Byte).toNat ∧ 18 ≤ (18 : Byte).toNat := by
  unfold Claims.InRange
  decide

theorem test_hyp_TransportHasThreeAnswers :
    fresh.dev.wf ∧ 0 + (List.replicate 18 (0 : Byte)).length ≤ 18 ∧ 17 + [(0 : Byte)].length ≤ 18 ∧ 0 + 0 ≤ 18
      ∧ (ready [.ok]).transferAnswer = .ok ∧ (ready [.fail]).transferAnswer = .fail
      ∧ (ready [.hang]).transferAnswer = .hang ∧ (ready [.fail, .ok]).env.transfer = .fail :: [.ok] := by decide

theorem test_hyp_BadArgumentsReachNothing :
    Claims.BadArguments (.init none) ∧ Claims.BadArguments (.init (some ⟨0x00, 0x00, 0x12, 0x15, 0x00, 0x07, 0x00⟩))
      ∧ Claims.BadArguments (.read false 4 7) ∧ Claims.BadArguments (.read true 0x11 2)
      ∧ Claims.BadArguments (.write 1 (.null 3)) ∧ Claims.BadArguments (.write 0 (.bytes []))
      ∧ Claims.BadArguments (.setalarm (.null 5)) ∧ Claims.BadArguments (.setalarm (.bytes [0x30, 0x45, 0x07, 0x15]))
      ∧ (Instr.setalarm (.bytes [0x30, 0x45, 0x07, 0x15])).WellFormed = true := by
  simp only [Claims.BadArguments, Claims.InRange]
  refine ⟨trivial, by decide, by decide, by decide, trivial, by decide, trivial, .inl (by decide), by decide⟩

theorem test_hyp_BadArguments_illegal_alarm :
    Claims.BadArguments (.setalarm (.bytes [0x30, 0x45, 0x07, 0x00, 0x00])) := by
  refine .inr fun r h => ?_
  simp only [AlarmRecord.toBytes, List.cons.injEq, and_true] at h
  obtain ⟨h0, h1, h2, h3, h4⟩ := h
  rw [show r = ⟨0x30, 0x45, 0x07, 0x00, 0x00⟩ by cases r; simp_all]
  decide

theorem test_hyp_GuardGatesRegisterAccess :
    fresh.gs ≠ .ready ∧ (fresh.setGs .failed).gs ≠ .ready ∧ Claims.InRange (0x11 : Byte).toNat (1 : Byte).toNat
      ∧ Claims.InRange (0 : Byte).toNat (List.replicate 18 (0 : Byte)).length ∧ alarmMask minAlarm = 0
      ∧ fresh.dev.wf ∧ timeMask minTime true = 0 := by
  unfold Claims.InRange
  decide

theorem test_hyp_GuardGates_only_init_changes :
    (∀ record, Instr.enc 0 ≠ .init record) ∧ ∃ t, exec (.enc 0) fresh = .next t := ⟨nofun, _, rfl⟩

theorem test_hyp_InitSucceeds :
    (unready .ok .ok .ok).dev.wf ∧ timeMask minTime true = 0 ∧ (unready .ok .ok .ok).deviceReadyAnswer = .ok
      ∧ (unready .ok .ok .ok).askDeviceReady.irqSetupAnswer = .ok
      ∧ (unready .ok .ok .ok).askDeviceReady.askIrqSetup.transferAnswer = .ok := by decide

theorem test_hyp_InitFailuresAreDistinct :
    timeMask maxTime true = 0 ∧ (unready .fail .ok .ok).deviceReadyAnswer = .fail
      ∧ (unready .ok .fail .ok).deviceReadyAnswer = .ok ∧ (unready .ok .fail .ok).askDeviceReady.irqSetupAnswer = .fail
      ∧ (unready .ok .ok .fail).deviceReadyAnswer = .ok ∧ (unready .ok .ok .fail).askDeviceReady.irqSetupAnswer = .ok
      ∧ (unready .ok .ok .fail).askDeviceReady.askIrqSetup.transferAnswer = .fail := by decide

theorem test_hyp_ReadFollowsItsRule :
    (ready [.ok]).transferAnswer = .ok ∧ (ready [.fail]).transferAnswer = .fail
      ∧ (ready [.hang]).transferAnswer = .hang ∧ (ready [.ok]).gs = .ready ∧ (ready [.ok]).dev.wf ∧ fresh.gs ≠ .ready
      ∧ Claims.InRange (0 : Byte).toNat (18 : Byte).toNat ∧ Claims.InRange (0x11 : Byte).toNat (1 : Byte).toNat
      ∧ ¬ Claims.InRange (0x11 : Byte).toNat (2 : Byte).toNat := by
  unfold Claims.InRange
  decide

theorem test_hyp_WriteFollowsItsRule :
    (ready [.ok]).transferAnswer = .ok ∧ (ready [.fail]).transferAnswer = .fail
      ∧ (ready [.hang]).transferAnswer = .hang ∧ (ready [.ok]).gs = .ready ∧ (ready [.ok]).dev.wf ∧ fresh.gs ≠ .ready
      ∧ (List.replicate 19 (0 : Byte)).length ≤ 255 ∧ ¬ Claims.InRange (0 : Byte).toNat (List.replicate 19 (0 : Byte)).length
      ∧ Claims.InRange (0 : Byte).toNat (List.replicate 18 (0 : Byte)).length
      ∧ Claims.InRange (0x11 : Byte).toNat [(0 : Byte)].length ∧ ¬ Claims.InRange (0x12 : Byte).toNat [(0 : Byte)].length := by
  unfold Claims.InRange
  decide

theorem test_hyp_SetalarmSucceeds :
    (ready [.ok, .ok]).dev.wf ∧ alarmMask maxAlarm = 0 ∧ (ready [.ok, .ok]).gs = .ready
      ∧ (ready [.ok, .ok]).transferAnswer = .ok ∧ ((ready [.ok, .ok]).issueWrite 0x01 [0x80]).transferAnswer = .ok := by decide

theorem test_hyp_SetalarmIsNotAtomic :
    (ready [.ok, .fail]).dev.wf ∧ alarmMask minAlarm = 0 ∧ (ready [.ok, .fail]).gs = .ready
      ∧ (ready [.fail]).transferAnswer = .fail ∧ (ready [.ok, .fail]).transferAnswer = .ok
      ∧ ((ready [.ok, .fail]).issueWrite 0x01 [0x80]).transferAnswer = .fail := by decide

theorem test_hyp_ReadReturnsWhatWriteStored :
    (ready [.ok, .ok]).dev.wf ∧ Claims.InRange (0x11 : Byte).toNat [(0x5A : Byte)].length ∧ (ready [.ok, .ok]).gs = .ready
      ∧ (ready [.ok, .ok]).transferAnswer = .ok
      ∧ ∃ t, exec (.write 0x11 (.bytes [0x5A])) (ready [.ok, .ok]) = .next t ∧ t.transferAnswer = .ok := 
  ⟨by decide, by unfold Claims.InRange; decide, by decide, by decide, _, rfl, by decide⟩

theorem test_hyp_RecordsReadBack_init :
    fresh.dev.wf ∧ timeMask goodTime true = 0
      ∧ ∃ t, exec (.init (some goodTime))
          ({ fresh with env := { deviceReady := [.ok], irqSetup := [.ok], transfer := [.ok, .ok], draws := 0 } } : State) = .next t
        ∧ t.trace.head? = some (.response ⟨.ok, .plain, 0, []⟩) ∧ t.transferAnswer = .ok := 
  ⟨by decide, by decide, _, rfl, by decide, by decide⟩

theorem test_hyp_RecordsReadBack_setalarm :
    (ready [.ok, .ok, .ok]).dev.wf ∧ alarmMask goodAlarm = 0 ∧ (ready [.ok, .ok, .ok]).gs = .ready
      ∧ ∃ t, exec (.setalarm (.bytes goodAlarm.toBytes)) (ready [.ok, .ok, .ok]) = .next t
        ∧ t.trace.head? = some (.response ⟨.ok, .plain, 0, []⟩) ∧ t.transferAnswer = .ok := 
  ⟨by decide, by decide, by decide, _, rfl, by decide, by decide⟩

theorem test_hyp_TransfersPerCommand_pure :
    (Instr.enc 0).IsPure ∧ ∃ t, exec (.enc 0) fresh = .next t := ⟨trivial, _, rfl⟩

theorem test_hyp_TransfersPerCommand_rejected :
    (Instr.write 1 (.null 3)).WellFormed = true ∧ Claims.BadArguments (.write 1 (.null 3))
      ∧ ∃ t, exec (.write 1 (.null 3)) fresh = .next t := ⟨rfl, trivial, _, rfl⟩

theorem test_hyp_TransfersPerCommand_guard :
    (∀ record, rdtime ≠ .init record) ∧ fresh.gs ≠ .ready ∧ ∃ t, exec rdtime fresh = .next t := ⟨nofun, by decide, _, rfl⟩

theorem test_hyp_TransfersPerCommand_read :
    Claims.InRange (0 : Byte).toNat (18 : Byte).toNat ∧ (ready [.fail]).gs = .ready
      ∧ ∃ t, exec rdall (ready [.fail]) = .next t := 
  ⟨by unfold Claims.InRange; decide, by decide, _, rfl⟩

theorem test_hyp_TransfersPerCommand_write :
    Claims.InRange (0x11 : Byte).toNat [(0 : Byte)].length ∧ (ready [.fail]).gs = .ready
      ∧ ∃ t, exec (.write 0x11 (.bytes [0])) (ready [.fail]) = .next t := 
  ⟨by unfold Claims.InRange; decide, by decide, _, rfl⟩

theorem test_hyp_TransfersPerCommand_init_dev_fail :
    timeMask goodTime true = 0 ∧ (unready .fail .ok .ok).deviceReadyAnswer = .fail
      ∧ ∃ t, exec (.init (some goodTime)) (unready .fail .ok .ok) = .next t := 
  ⟨by decide, by decide, _, rfl⟩

theorem test_hyp_TransfersPerCommand_init_irq_fail :
    timeMask goodTime true = 0 ∧ (unready .ok .fail .ok).deviceReadyAnswer = .ok
      ∧ (unready .ok .fail .ok).askDeviceReady.irqSetupAnswer = .fail
      ∧ ∃ t, exec (.init (some goodTime)) (unready .ok .fail .ok) = .next t := 
  ⟨by decide, by decide, by decide, _, rfl⟩

theorem test_hyp_TransfersPerCommand_init_write_hang :
    timeMask goodTime true = 0 ∧ (unready .ok .ok .hang).deviceReadyAnswer = .ok
      ∧ (unready .ok .ok .hang).askDeviceReady.irqSetupAnswer = .ok
      ∧ ∃ t, exec (.init (some goodTime)) (unready .ok .ok .hang) = .next t := 
  ⟨by decide, by decide, by decide, _, rfl⟩

theorem test_hyp_TransfersPerCommand_setalarm :
    alarmMask goodAlarm = 0 ∧ (ready [.ok, .fail]).gs = .ready ∧ (ready [.ok, .fail]).transferAnswer = .ok
      ∧ (∃ t, exec (.setalarm (.bytes goodAlarm.toBytes)) (ready [.ok, .fail]) = .next t)
      ∧ (ready [.fail]).transferAnswer ≠ .ok
      ∧ ∃ t, exec (.setalarm (.bytes goodAlarm.toBytes)) (ready [.fail]) = .next t := 
  ⟨by decide, by decide, by decide, ⟨_, rfl⟩, by decide, _, rfl⟩

theorem test_hyp_TransfersPerCommand_run :
    (queued [.ok]).dev.wf ∧ ∃ t, stepRun (queued [.ok]) = .next t := ⟨by decide, _, rfl⟩

theorem test_hyp_GuardStateMachine :
    fresh.hung = false ∧ (∃ t, exec (.init none) fresh = .next t) ∧ (∃ t, takeIllegalCommand fresh = .next t)
      ∧ (∀ record, rdtime ≠ .init record) ∧ (∃ t, exec rdtime fresh = .next t) ∧ ∃ t, stepRun (queued [.ok]) = .next t := 
  ⟨by decide, ⟨_, rfl⟩, ⟨_, rfl⟩, nofun, ⟨_, rfl⟩, _, rfl⟩

theorem test_hyp_OneResponsePerCommand :
    (ready [.hang]).hung = false ∧ (∃ t, exec rdtime (ready [.hang]) = .next t) ∧ ∃ t, exec rdtime (ready [.ok]) = .next t := 
  ⟨by decide, ⟨_, rfl⟩, _, rfl⟩

theorem test_hyp_ResponseFieldsFit :
    fresh.hung = false ∧ ∃ t, exec rdtime fresh = .next t ∧ t.hung = false
      ∧ t.trace.head? = some (.response ⟨.deviceSetupError, .guard, 0, []⟩) := 
  ⟨by decide, _, rfl, by decide, by decide⟩

theorem test_hyp_ResponseFieldsFit_dec :
    ∃ t, exec (.dec 0x9A) fresh = .next t ∧ t.hung = false
      ∧ t.trace.head? = some (.response ⟨.ok, .notBcd, 100, []⟩) := 
  ⟨_, rfl, by decide, by decide⟩

theorem test_hyp_ResponseFieldsFit_init :
    ∃ t, exec (.init (some goodTime)) (unready .fail .ok .ok) = .next t ∧ t.hung = false
      ∧ t.trace.head? = some (.response ⟨.deviceSetupError, .i2cDevice, 0, []⟩) := 
  ⟨_, rfl, by decide, by decide⟩

theorem test_hyp_ErrorsLeaveOnlyListedEffects :
    (ready [.ok, .fail]).hung = false
      ∧ ∃ t, exec (.setalarm (.bytes goodAlarm.toBytes)) (ready [.ok, .fail]) = .next t ∧ t.hung = false
        ∧ t.trace.head? = some (.response ⟨.i2cWriteError, .plain, 0, []⟩) ∧ ErrCode.i2cWriteError ≠ .ok := 
  ⟨by decide, _, rfl, by decide, by decide, by decide⟩

theorem test_hyp_ResponseFieldsFit_values :
    (∃ t, exec (.enc 0x0C) fresh = .next t ∧ t.trace.head? = some (.response ⟨.ok, .plain, 0x12, []⟩))
      ∧ (∃ t r, exec (.parse [] []) fresh = .next t ∧ t.trace.head? = some (.response r) ∧ t.hung = false)
      ∧ ∃ t b, exec rdctrl (ready [.ok]) = .next t ∧ t.hung = false
        ∧ t.trace.head? = some (.response ⟨.ok, .plain, 0, [b]⟩) :=
  ⟨⟨_, rfl, by decide⟩, ⟨_, _, rfl, rfl, by decide⟩, _, _, rfl, by decide, rfl⟩

theorem test_hyp_ErrorsLeaveOnlyListedEffects_init :
    (∃ t, exec (.init none) fresh = .next t ∧ t.hung = false
        ∧ t.trace.head? = some (.response ⟨.invalidParameter, .plain, 0, []⟩))
      ∧ (∃ t, exec (.init (some goodTime)) (unready .fail .ok .ok) = .next t ∧ t.hung = false
        ∧ t.trace.head? = some (.response ⟨.deviceSetupError, .i2cDevice, 0, []⟩))
      ∧ (∃ t, exec (.init (some goodTime)) (unready .ok .fail .ok) = .next t ∧ t.hung = false
        ∧ t.trace.head? = some (.response ⟨.deviceSetupError, .irqLine, 0, []⟩))
      ∧ ∃ t, exec (.init (some goodTime)) (unready .ok .ok .fail) = .next t ∧ t.hung = false
        ∧ t.trace.head? = some (.response ⟨.i2cWriteError, .plain, 0, []⟩) :=
  ⟨⟨_, rfl, by decide, by decide⟩, ⟨_, rfl, by decide, by decide⟩, ⟨_, rfl, by decide, by decide⟩,
    _, rfl, by decide, by decide⟩

theorem test_hyp_ErrorsLeaveOnlyListedEffects_setalarm :
    (∃ t, exec (.setalarm (.null 5)) (ready []) = .next t ∧ t.hung = false
        ∧ t.trace.head? = some (.response ⟨.invalidParameter, .plain, 0, []⟩))
      ∧ (ready [.fail]).transferAnswer ≠ .ok ∧ (ready [.ok, .fail]).transferAnswer = .ok
      ∧ ∃ t, exec (.setalarm (.bytes goodAlarm.toBytes)) (ready [.fail]) = .next t ∧ t.hung = false
        ∧ t.trace.head? = some (.response ⟨.i2cWriteError, .plain, 0, []⟩) :=
  ⟨⟨_, rfl, by decide, by decide⟩, by decide, by decide, _, rfl, by decide, by decide⟩

theorem test_hyp_PureCommandsFrame :
    (Instr.dec 0xFF).IsPure ∧ ∃ t, exec (.dec 0xFF) stuck = .next t := ⟨trivial, _, rfl⟩

theorem test_hyp_RegisterAccessFrame :
    (∃ t, exec rdall (ready [.ok]) = .next t) ∧ (∃ t, exec (.write 1 (.null 3)) fresh = .next t)
      ∧ (∃ t, exec (.write 0x11 (.bytes [0x5A])) (ready [.ok]) = .next t) ∧ (0x10 : Nat) < (0x11 : Byte).toNat
      ∧ (0x11 : Byte).toNat + [(0x5A : Byte)].length ≤ 0x12
      ∧ (∃ t, exec (.setalarm (.bytes goodAlarm.toBytes)) (ready [.ok, .ok]) = .next t)
      ∧ 0x10 ≠ Config.ctrlAddr ∧ ∀ j, j < 5 → 0x10 ≠ alarmReg j := 
  ⟨⟨_, rfl⟩, ⟨_, rfl⟩, ⟨_, rfl⟩, by decide, by decide, ⟨_, rfl⟩, by decide, by decide⟩

theorem test_hyp_InitFrame :
    (∃ t, exec (.init (some goodTime)) (unready .ok .ok .ok) = .next t) ∧ (∀ i, i < 7 → 0x0B ≠ timeReg i)
      ∧ (∀ i, i < 7 → 0x03 ≠ timeReg i) ∧ (∃ t, exec (.init none) fresh = .next t) ∧ Claims.BadArguments (.init none) := 
  ⟨⟨_, rfl⟩, by decide, by decide, ⟨_, rfl⟩, trivial⟩

theorem test_hyp_WhoWritesGuardState :
    ∃ t, step (present (unready .ok .ok .ok) 0x88000007 goodTime.toBytes) = .next t ∧ t.gs ≠ .uninitialized := 
  ⟨_, rfl, by decide⟩

theorem test_hyp_WhoWritesGuardState_reset :
    ∃ t, step (happen (ready []) .reset) = .next t ∧ (ready []).hc = true ∧ t.hc = false ∧ t.irqEn = false := 
  ⟨_, rfl, by decide, by decide, by decide⟩

theorem test_hyp_DeviceChangesOnlyByWrites :
    ∃ t, step (present (ready [.ok, .fail]) 0xB8000005 goodAlarm.toBytes) = .next t
      ∧ t.dev.read 1 ≠ (ready [.ok, .fail]).dev.read 1 := 
  ⟨_, rfl, by decide⟩

theorem test_hyp_WhoWritesAlarmFired :
    ∃ t, step (queued [.fail]) = .next t ∧ (queued [.fail]).alarmFired = false ∧ t.alarmFired = true := 
  ⟨_, rfl, by decide, by decide⟩

theorem test_hyp_WhoWritesAlarmFired_clear :
    ∃ t, step (happen (stuck.setAlarmFired true) .clear) = .next t ∧ (stuck.setAlarmFired true).alarmFired = true
      ∧ t.alarmFired = false := 
  ⟨_, rfl, by decide, by decide⟩

theorem test_hyp_EdgeQueuesOneItem :
    (happen (ready []) .edge).agenda = .edge :: [] ∧ (ready []).hung = false ∧ (ready []).irqEn = true
      ∧ fresh.hung = false ∧ fresh.irqEn = false ∧ (happen fresh .edge).agenda = .edge :: [] ∧ stuck.hung = true
      ∧ (happen stuck .edge).agenda = .edge :: [] := by decide

theorem test_hyp_RunReadsBackAndSetsLatch :
    (queued [.ok]).dev.wf ∧ (happen (queued [.ok]) .run).agenda = .run :: [] ∧ (queued [.ok]).hung = false
      ∧ (queued [.ok]).workPending = true ∧ (queued [.ok]).transferAnswer = .ok
      ∧ (queued [.fail]).transferAnswer = .fail ∧ (queued [.hang]).transferAnswer = .hang
      ∧ stuck.hung = true ∧ fresh.workPending = false := by decide

theorem test_hyp_EdgesCoalesce :
    fresh.hung = false ∧ (ready []).hung = false := by decide

theorem test_hyp_PendingRunHappensWhenIdle :
    (queued [.fail]).dev.wf ∧ (queued [.fail]).agenda = [] ∧ (queued [.fail]).workPending = true
      ∧ (queued [.fail]).hung = false ∧ (queued [.fail]).transferAnswer ≠ .hang := by decide

theorem test_hyp_ClearClearsTheLatchOnly :
    (happen (stuck.setAlarmFired true) .clear).agenda = .clear :: [] ∧ (queued [.fail]).dev.wf ∧ (queued [.fail]).hung = false
      ∧ (queued [.fail]).workPending = true ∧ (queued [.fail]).transferAnswer ≠ .hang
      ∧ ((queued [.fail]).setAgenda [.run, .clear]).agenda = .run :: .clear :: []
      ∧ ((queued [.fail]).setAgenda [.clear, .run]).agenda = .clear :: .run :: [] := by decide

end Sys2Proof.Tests
end

section
/-! SUPPORT. Proofs of the statements on spec/10_state.md: the values after reset (R23), and `CLEAR`, the status outputs
and the order of `CLEAR` and a deferred run (R22). The rules about the model that they need come first. -/

namespace Sys2Proof.Machine

/-! ### The device register file at power-on -/

/-- A register file given by a list of addresses and a byte for each reads as that function, on exactly those addresses. -/
theorem Memory.read_map_addresses (f : Nat → Byte) (addrs : List Nat) (a : Nat) :
    Memory.read (addrs.map fun k => (k, f k)) a = if a ∈ addrs then some (f a) else none := by
  induction addrs with
  | nil => rfl
  | cons k addrs ih =>
    by_cases hk : k = a
    · simp [Memory.read, hk]
    · simp [Memory.read, hk, Ne.symm hk, ih]

/-- The 18 registers hold their bytes of `DEV_RESET`, and there is no other register (R23, R30). -/
theorem Memory.read_powerOn (a : Nat) :
    Memory.powerOn.read a = if a < 18 then some (Config.devReset a) else none := by
  simp [Memory.powerOn, Memory.read_map_addresses, Config.regSpace]

/-! ### The status outputs -/

/-- The coding of R11 tells the guard states apart. -/
theorem GuardState.code_inj (g g' : GuardState) : g.code = g'.code ↔ g = g' := by
  cases g <;> cases g' <;> decide

/-- The status output `gs` shows a code exactly when the guard is in the state it stands for (R22). -/
theorem State.statusGs_eq_code_iff (s : State) (g : GuardState) : s.statusGs = g.code ↔ s.gs = g :=
  GuardState.code_inj s.gs g

/-! ### Taking the event at the head of the agenda -/

/-- A step takes the event at the head of the agenda. -/
theorem step_of_agenda_cons (s : State) (e : Event) (rest : List Event) (ha : s.agenda = e :: rest) :
    step s = takeEvent e (s.setAgenda rest) := by
  simp [step, nextStep, ha]

/-- A `CLEAR` step clears the latch and does nothing else, in every state (R22). -/
theorem step_of_clear (s : State) (rest : List Event) (ha : s.agenda = .clear :: rest) :
    step s = .next ((s.setAgenda rest).setAlarmFired false) :=
  step_of_agenda_cons s .clear rest ha

/-- With an item queued and the block not hung, the turn of the deferred-work runner is the deferred run (R128). -/
theorem takeRun_of_pending (s : State) (hp : s.workPending = true) (hh : s.hung = false) : takeRun s = stepRun s := by
  simp [takeRun, hp, hh]

/-- On a canonical register file, a deferred run whose transfer does not hang ends with the latch set, and leaves the
agenda alone (R128). -/
theorem exists_stepRun_of_no_hang (s : State) (hw : s.dev.wf) (ht : s.transferAnswer ≠ .hang) :
    ∃ t, stepRun s = .next t ∧ t.alarmFired = true ∧ t.agenda = s.agenda := by
  rcases (s.setWorkPending false).memRead_cases hw 0x00 Config.regSpace (by decide) with
    ⟨bytes, -, -, hread⟩ | ⟨-, hread⟩ | ⟨hhang, -⟩
  · simp only [stepRun, hread]
    exact ⟨_, rfl, rfl, rfl⟩
  · simp only [stepRun, hread]
    exact ⟨_, rfl, rfl, rfl⟩
  · exact absurd hhang ht

/-- A `RUN` step with an item queued, on a block that is neither hung nor gets hung by the transfer, sets the latch and
uses up only its own event (R128). -/
theorem exists_step_of_run (s : State) (rest : List Event) (hw : s.dev.wf) (hh : s.hung = false)
    (hp : s.workPending = true) (ht : s.transferAnswer ≠ .hang) (ha : s.agenda = .run :: rest) :
    ∃ t, step s = .next t ∧ t.alarmFired = true ∧ t.agenda = rest := by
  have hstep : step s = stepRun (s.setAgenda rest) :=
    (step_of_agenda_cons s .run rest ha).trans (takeRun_of_pending _ hp hh)
  rw [hstep]
  exact exists_stepRun_of_no_hang _ hw ht

/-- A deferred run and then a `CLEAR`: the `CLEAR` wins (R22). -/
theorem run_then_clear (s : State) (rest : List Event) (hw : s.dev.wf) (hh : s.hung = false)
    (hp : s.workPending = true) (ht : s.transferAnswer ≠ .hang) (ha : s.agenda = .run :: .clear :: rest) :
    ∃ t u, step s = .next t ∧ step t = .next u ∧ u.alarmFired = false := by
  obtain ⟨t, hst, -, hta⟩ := exists_step_of_run s (.clear :: rest) hw hh hp ht ha
  exact ⟨t, _, hst, step_of_clear t rest hta, rfl⟩

/-- A `CLEAR` and then a deferred run: the run wins (R22). -/
theorem clear_then_run (s : State) (rest : List Event) (hw : s.dev.wf) (hh : s.hung = false)
    (hp : s.workPending = true) (ht : s.transferAnswer ≠ .hang) (ha : s.agenda = .clear :: .run :: rest) :
    ∃ t u, step s = .next t ∧ step t = .next u ∧ u.alarmFired = true := by
  obtain ⟨u, htu, hfired, -⟩ :=
    exists_step_of_run ((s.setAgenda (.run :: rest)).setAlarmFired false) rest hw hh hp ht rfl
  exact ⟨_, u, step_of_clear s _ ha, htu, hfired⟩

/-! ### The statements -/

/-- Settles O58: the `CLEAR` step, the coding of the guard state, and one lemma for each order of `CLEAR` and `RUN`. -/
theorem clearClearsTheLatchOnly : Obligations.ClearClearsTheLatchOnly := by
  refine ⟨step_of_clear, fun s => ⟨rfl, rfl, ?_, ?_, ?_⟩, fun s rest hw hh hp ht => ⟨?_, ?_⟩⟩
  · exact s.statusGs_eq_code_iff .uninitialized
  · exact s.statusGs_eq_code_iff .ready
  · exact s.statusGs_eq_code_iff .failed
  · exact run_then_clear s rest hw hh hp ht
  · exact clear_then_run s rest hw hh hp ht

/-- Settles O10: the block's elements are the fields of `State.reset`, the registers are those of `Memory.powerOn`. -/
theorem resetValues : Obligations.ResetValues := by
  refine ⟨rfl, rfl, rfl, rfl, rfl, rfl, rfl, fun a ha => ?_, fun a ha => ?_⟩
  · exact (Memory.read_powerOn a).trans (if_pos ha)
  · exact (Memory.read_powerOn a).trans (if_neg (Nat.not_lt.mpr ha))

end Sys2Proof.Machine
end

section
/-! SUPPORT. Proofs of the statements on spec/20_memory.md: the bounds check and VRANGE (R35, R96), and the transfers each
command issues (R38). First the rules they need: the argument checks in the words of the statements, and what is recorded
of the questions a command asks. -/

/-! ### What was asked of the environment -/

namespace Sys2Proof.Claims
open Sys2Proof.Machine

/-- Nothing is asked where nothing happens. -/
theorem CallsMade.refl (s : State) : CallsMade s s [] := ⟨[], rfl, rfl⟩

/-- Only what has left the block counts, no other field. -/
theorem CallsMade.of_trace_eq {s t u : State} {calls : List Output} (h : CallsMade s t calls)
    (htrace : u.trace = t.trace) : CallsMade s u calls := by
  obtain ⟨news, hnews, hcalls⟩ := h
  exact ⟨news, htrace.trans hnews, hcalls⟩

/-- A question that leaves the block is the newest of those asked. -/
theorem CallsMade.emit_call {s t : State} {calls : List Output} (h : CallsMade s t calls) (o : Output)
    (ho : o.isCall = true) : CallsMade s (t.emit o) (o :: calls) := by
  obtain ⟨news, hnews, hcalls⟩ := h
  exact ⟨o :: news, congrArg (o :: ·) hnews, by rw [List.filter_cons_of_pos ho, hcalls]⟩

/-- An output that is no question (a response or a snapshot) asks nothing. -/
theorem CallsMade.emit_other {s t : State} {calls : List Output} (h : CallsMade s t calls) (o : Output)
    (ho : o.isCall = false) : CallsMade s (t.emit o) calls := by
  obtain ⟨news, hnews, hcalls⟩ := h
  exact ⟨o :: news, congrArg (o :: ·) hnews, by rw [List.filter_cons_of_neg (by simp [ho]), hcalls]⟩

/-- A response asks nothing. -/
theorem CallsMade.answered {s t : State} {calls : List Output} (h : CallsMade s t calls) (err : ErrCode)
    (detail : Detail) (val : Byte) (dout : List Byte) : CallsMade s (t.answered err detail val dout) calls :=
  h.emit_other _ rfl

/-- A burst read asks the transport once. -/
theorem CallsMade.issueRead {s t : State} {calls : List Output} (h : CallsMade s t calls) (start len : Nat) :
    CallsMade s (t.issueRead start len) (.burstRead 0x51 start len t.transferAnswer :: calls) :=
  (h.emit_call _ rfl).of_trace_eq rfl

/-- A burst write asks the transport once. -/
theorem CallsMade.issueWrite {s t : State} {calls : List Output} (h : CallsMade s t calls) (start : Nat)
    (bytes : List Byte) :
    CallsMade s (t.issueWrite start bytes) (.burstWrite 0x51 start bytes t.transferAnswer :: calls) :=
  (h.emit_call _ rfl).of_trace_eq rfl

/-- Asking for the device asks exactly that. -/
theorem CallsMade.askDeviceReady {s t : State} {calls : List Output} (h : CallsMade s t calls) :
    CallsMade s t.askDeviceReady (.deviceReady t.deviceReadyAnswer :: calls) :=
  (h.emit_call _ rfl).of_trace_eq rfl

/-- Asking for the interrupt line asks exactly that. -/
theorem CallsMade.askIrqSetup {s t : State} {calls : List Output} (h : CallsMade s t calls) :
    CallsMade s t.askIrqSetup (.irqSetup t.irqSetupAnswer :: calls) :=
  (h.emit_call _ rfl).of_trace_eq rfl

end Sys2Proof.Claims

namespace Sys2Proof.Machine

/-- What INIT has asked when it holds the device handle (R102 line 3). -/
theorem callsMade_afterDeviceReady (s : State) :
    Claims.CallsMade s s.afterDeviceReady [.deviceReady s.deviceReadyAnswer] :=
  (Claims.CallsMade.refl s).askDeviceReady.of_trace_eq (by simp)

/-- What INIT has asked when it has registered the callback (R102 line 5). -/
theorem callsMade_afterIrqLine (s : State) :
    Claims.CallsMade s s.afterIrqLine
      [.irqSetup s.askDeviceReady.irqSetupAnswer, .deviceReady s.deviceReadyAnswer] :=
  (Claims.CallsMade.refl s).askDeviceReady.askIrqSetup.of_trace_eq (by simp)

/-- What SETALARM has asked when its control byte is stored (R105 line 4). -/
theorem callsMade_afterAlarmControl (s : State) :
    Claims.CallsMade s s.afterAlarmControl [.burstWrite 0x51 0x01 [0x80] s.transferAnswer] :=
  ((Claims.CallsMade.refl s).issueWrite 0x01 [0x80]).of_trace_eq (by simp [Config.chipAddr])

/-! ### The argument checks -/

/-- The bounds check is R35's. -/
theorem rangeOk_iff_inRange (start len : Byte) :
    rangeOk start len = true ↔ Claims.InRange start.toNat len.toNat :=
  rangeOk_iff start len

/-- A buffer that a command word can carry passes the bounds check exactly when its own length does. -/
theorem rangeOk_len_iff_inRange (start : Byte) (bs : List Byte) (hlen : bs.length ≤ 255) :
    rangeOk start (Source.bytes bs).len = true ↔ Claims.InRange start.toNat bs.length := by
  have hnat : (Source.bytes bs).len.toNat = bs.length := by
    rw [Source.len, BitVec.toNat_ofNat]
    omega
  rw [rangeOk_iff_inRange, hnat]

/-- From bad arguments SETALARM takes no record (R105 lines 1 and 2). -/
theorem acceptedAlarm_of_badArguments (src : Source) (hbad : Claims.BadArguments (.setalarm src)) :
    acceptedAlarm src = none := by
  by_contra hne
  obtain ⟨r, hr⟩ := Option.ne_none_iff_exists'.mp hne
  obtain ⟨rfl, hmask⟩ := (acceptedAlarm_eq_some src r).mp hr
  rcases hbad with hlen | hillegal
  · exact hlen rfl
  · exact hillegal r rfl hmask

/-- A command with bad arguments is answered `InvalidParameter`, and does nothing else (R100). -/
theorem exec_of_badArguments (i : Instr) (s : State) (hwf : i.WellFormed = true) (hbad : Claims.BadArguments i) :
    exec i s = .next (s.answered .invalidParameter .plain 0 []) := by
  cases i with
  | init record =>
    cases record with
    | none => rfl
    | some r => exact if_neg hbad
  | read present start len =>
    refine if_neg fun hok => ?_
    obtain ⟨hpresent, hrange⟩ := Bool.and_eq_true_iff.mp hok
    rcases hbad with habsent | hout
    · simp [habsent] at hpresent
    · exact hout ((rangeOk_iff_inRange start len).mp hrange)
  | write start src =>
    cases src with
    | null len => rfl
    | bytes bs =>
      have hlen : bs.length ≤ 255 := of_decide_eq_true hwf
      exact if_neg fun hrange => hbad ((rangeOk_len_iff_inRange start bs hlen).mp hrange)
  | setalarm src =>
    change execSetalarm src s = _
    rw [execSetalarm, acceptedAlarm_of_badArguments src hbad]
    rfl
  | enc | dec | month | parse | vtime | valarm | vrange => exact hbad.elim

/-! ### VRANGE -/

/-- VRANGE answers `OK` for a range inside the register space (R96). -/
theorem exec_vrange_of_inRange (start len : Byte) (s : State) (hr : Claims.InRange start.toNat len.toNat) :
    exec (.vrange start len) s = .next (s.answered .ok .plain 0 []) :=
  if_pos ((rangeOk_iff_inRange start len).mpr hr)

/-- VRANGE answers `InvalidParameter` for every other range (R96). -/
theorem exec_vrange_of_not_inRange (start len : Byte) (s : State) (hr : ¬ Claims.InRange start.toNat len.toNat) :
    exec (.vrange start len) s = .next (s.answered .invalidParameter .plain 0 []) :=
  if_neg fun hok => hr ((rangeOk_iff_inRange start len).mp hok)

/-- The number of a VRANGE word (R57). -/
theorem encodeWord_vrange_toNat (start len : Byte) :
    (encodeWord (.vrange start len)).toNat = 0x70000000 + start.toNat * 0x100 + len.toNat := by
  rw [encodeWord, packWord_toNat]
  simp

/-- No range that starts beyond the last register is legal. -/
theorem rangeOk_of_start_ge (start len : Byte) (hs : 18 ≤ start.toNat) : rangeOk start len = false := by
  rw [Bool.eq_false_iff, ne_eq, rangeOk_iff]
  omega

/-- As many of the first `m` numbers are below `k` as there can be. -/
theorem countP_range_lt (k m : Nat) : (List.range m).countP (fun a => decide (a < k)) = min k m := by
  induction m with
  | zero => simp
  | succ m ih =>
    rw [List.range_succ, List.countP_append, ih, List.countP_singleton]
    by_cases hm : m < k <;> simp [hm] <;> omega

/-- A length `n` is legal with the starts `0` to `18 - n`, and none is legal with length 0. -/
theorem countP_rangeOk (n : Nat) (hn : n < 256) :
    (List.range 256).countP (fun a => rangeOk (BitVec.ofNat 8 a) (BitVec.ofNat 8 n))
      = if n = 0 then 0 else 19 - n := by
  have hrow : ∀ a ∈ List.range 256, rangeOk (BitVec.ofNat 8 a) (BitVec.ofNat 8 n) = true
      ↔ decide (a < if n = 0 then 0 else 19 - n) = true := by
    intro a ha
    have ha' : a < 256 := List.mem_range.mp ha
    rw [rangeOk_iff, BitVec.toNat_ofNat, BitVec.toNat_ofNat, Nat.mod_eq_of_lt ha', Nat.mod_eq_of_lt hn,
      decide_eq_true_iff]
    split <;> omega
  rw [List.countP_congr hrow, countP_range_lt]
  split <;> omega

/-- The legal starts of all lengths together number 18 + 17 + … + 1; the lengths from 19 on add none. -/
theorem sum_legal_starts (m : Nat) :
    ((List.range (19 + m)).map fun n => if n = 0 then 0 else 19 - n).sum = 171 := by
  induction m with
  | zero => decide
  | succ m ih => rw [← Nat.add_assoc, List.range_succ, List.map_append, List.sum_append, ih]; simp

/-- The pairs that pass the bounds check number 171 (R96). -/
theorem sum_countP_rangeOk :
    ((List.range 256).map fun n =>
      (List.range 256).countP fun a => rangeOk (BitVec.ofNat 8 a) (BitVec.ofNat 8 n)).sum = 171 := by
  rw [List.map_congr_left fun n hn => countP_rangeOk n (List.mem_range.mp hn)]
  exact sum_legal_starts 237

/-! ### The transfers of each command -/

/-- A pure command asks nothing (R74). -/
theorem callsMade_of_isPure (i : Instr) (s t : State) (hpure : i.IsPure) (h : exec i s = .next t) :
    Claims.CallsMade s t [] := by
  obtain ⟨r, hr⟩ := exec_of_isPure i hpure
  cases (hr s).symm.trans h
  exact (Claims.CallsMade.refl s).emit_other _ rfl

/-- A command whose arguments are rejected asks nothing. -/
theorem callsMade_of_badArguments (i : Instr) (s t : State) (hwf : i.WellFormed = true)
    (hbad : Claims.BadArguments i) (h : exec i s = .next t) : Claims.CallsMade s t [] := by
  cases (exec_of_badArguments i s hwf hbad).symm.trans h
  exact (Claims.CallsMade.refl s).answered ..

/-- Outside `Ready` only INIT asks anything (R101). -/
theorem callsMade_of_not_ready (i : Instr) (s t : State) (hinit : ∀ record, i ≠ .init record)
    (hguard : s.gs ≠ .ready) (h : exec i s = .next t) : Claims.CallsMade s t [] := by
  have hanswered (err detail val dout) : Claims.CallsMade s (s.answered err detail val dout) [] :=
    (Claims.CallsMade.refl s).answered ..
  cases i with
  | init record => exact absurd rfl (hinit record)
  | read present start len =>
    obtain ⟨-, rfl⟩ | ⟨-, -, -, rfl⟩ | ⟨-, -, hready, -⟩ := exec_read_cases present start len s t h
    · exact hanswered ..
    · exact hanswered ..
    · exact absurd hready hguard
  | write start src =>
    obtain ⟨-, rfl⟩ | ⟨_, -, -, ⟨-, rfl⟩ | ⟨hready, -⟩⟩ := exec_write_cases start src s t h
    · exact hanswered ..
    · exact hanswered ..
    · exact absurd hready hguard
  | setalarm src =>
    obtain ⟨-, rfl⟩ | ⟨_, -, ⟨-, rfl⟩ | ⟨hready, -⟩⟩ := exec_setalarm_cases src s t h
    · exact hanswered ..
    · exact hanswered ..
    · exact absurd hready hguard
  | enc | dec | month | parse | vtime | valarm | vrange => exact callsMade_of_isPure _ s t (by trivial) h

/-- A READ that passes its checks issues its one read, whatever the answer (R103). -/
theorem callsMade_read (start len : Byte) (s t : State) (hr : Claims.InRange start.toNat len.toNat)
    (hready : s.gs = .ready) (h : exec (.read true start len) s = .next t) :
    Claims.CallsMade s t [.burstRead 0x51 start.toNat len.toNat s.transferAnswer] := by
  have hissued := (Claims.CallsMade.refl s).issueRead start.toNat len.toNat
  obtain ⟨hbad, -⟩ | ⟨-, -, hguard, -⟩ | ⟨-, -, -, ⟨_, -, -, rfl⟩ | ⟨-, rfl⟩ | ⟨-, rfl⟩⟩ :=
    exec_read_cases true start len s t h
  · exact absurd ⟨rfl, (rangeOk_iff_inRange start len).mpr hr⟩ hbad
  · exact absurd hready hguard
  · exact hissued.answered ..
  · exact hissued.answered ..
  · exact hissued.of_trace_eq rfl

/-- A WRITE that passes its checks issues its one write, whatever the answer (R104). -/
theorem callsMade_write (start : Byte) (bs : List Byte) (s t : State) (hr : Claims.InRange start.toNat bs.length)
    (hready : s.gs = .ready) (h : exec (.write start (.bytes bs)) s = .next t) :
    Claims.CallsMade s t [.burstWrite 0x51 start.toNat bs s.transferAnswer] := by
  have hissued := (Claims.CallsMade.refl s).issueWrite start.toNat bs
  obtain ⟨hbad, -⟩ | ⟨bs', hbs, -, ⟨hguard, -⟩ | ⟨-, ⟨-, -, rfl⟩ | ⟨-, rfl⟩ | ⟨-, rfl⟩⟩⟩ :=
    exec_write_cases start (.bytes bs) s t h
  · have hlen : bs.length ≤ 255 := by
      obtain ⟨-, hlen18, -⟩ := hr
      omega
    have hok := (rangeOk_len_iff_inRange start bs hlen).mpr hr
    exact absurd hok (Bool.eq_false_iff.mp (hbad bs rfl))
  · exact absurd hready hguard
  all_goals cases hbs
  · exact (hissued.of_trace_eq rfl).answered ..
  · exact hissued.answered ..
  · exact hissued.of_trace_eq rfl

/-- An INIT of a legal record asks for the device, then, on `ok`, for the interrupt line, and then, on `ok`, issues its
one write (R102). -/
theorem callsMade_init (r : TimeRecord) (s t : State) (hmask : timeMask r true = 0)
    (h : exec (.init (some r)) s = .next t) :
    (s.deviceReadyAnswer = .fail → Claims.CallsMade s t [.deviceReady .fail])
      ∧ (s.deviceReadyAnswer = .ok → s.askDeviceReady.irqSetupAnswer = .fail →
        Claims.CallsMade s t [.irqSetup .fail, .deviceReady .ok])
      ∧ (s.deviceReadyAnswer = .ok → s.askDeviceReady.irqSetupAnswer = .ok →
        Claims.CallsMade s t [.burstWrite 0x51 0x04 r.toBytes s.askDeviceReady.askIrqSetup.transferAnswer,
          .irqSetup .ok, .deviceReady .ok]) := by
  have hasked := (Claims.CallsMade.refl s).askDeviceReady
  have hirqAsked := (callsMade_afterDeviceReady s).askIrqSetup
  have hissued := (callsMade_afterIrqLine s).issueWrite 0x04 r.toBytes
  rw [s.afterDeviceReady_answer] at hirqAsked
  rw [s.afterIrqLine_answer] at hissued
  obtain ⟨hbad, -⟩ | ⟨r', hr', -, hcase⟩ := exec_init_cases (some r) s t h
  · exact absurd hmask (hbad r rfl)
  cases hr'
  obtain ⟨hdev, rfl⟩ | ⟨hdev, ⟨hirq, rfl⟩ | ⟨hirq, hwrite⟩⟩ := hcase
  · rw [hdev] at hasked ⊢
    exact ⟨fun _ => (hasked.of_trace_eq rfl).answered .., nofun, nofun⟩
  · rw [s.afterDeviceReady_answer] at hirq
    rw [hdev, hirq] at hirqAsked ⊢
    exact ⟨nofun, fun _ _ => (hirqAsked.of_trace_eq rfl).answered .., nofun⟩
  · rw [s.afterDeviceReady_answer] at hirq
    rw [hdev, hirq] at hissued ⊢
    refine ⟨nofun, nofun, fun _ _ => ?_⟩
    obtain ⟨-, rfl⟩ | ⟨-, rfl⟩ | ⟨-, rfl⟩ := hwrite
    · exact (hissued.of_trace_eq rfl).answered ..
    · exact (hissued.of_trace_eq rfl).answered ..
    · exact hissued.of_trace_eq rfl

/-- A SETALARM that passes its checks issues the control write, and then, only on `ok`, the write of the five alarm fields
(R105). -/
theorem callsMade_setalarm (r : AlarmRecord) (s t : State) (hmask : alarmMask r = 0) (hready : s.gs = .ready)
    (h : exec (.setalarm (.bytes r.toBytes)) s = .next t) :
    (s.transferAnswer = .ok →
        Claims.CallsMade s t [.burstWrite 0x51 0x0B r.toBytes (s.issueWrite 0x01 [0x80]).transferAnswer,
          .burstWrite 0x51 0x01 [0x80] .ok])
      ∧ (s.transferAnswer ≠ .ok → Claims.CallsMade s t [.burstWrite 0x51 0x01 [0x80] s.transferAnswer]) := by
  have hctrl := (Claims.CallsMade.refl s).issueWrite 0x01 [0x80]
  have hfields := (callsMade_afterAlarmControl s).issueWrite 0x0B r.toBytes
  rw [s.afterAlarmControl_answer] at hfields
  have haccepted : acceptedAlarm (.bytes r.toBytes) = some r := (acceptedAlarm_eq_some _ r).mpr ⟨rfl, hmask⟩
  obtain ⟨hbad, -⟩ | ⟨r', hr', ⟨hguard, -⟩ | ⟨-, hcase⟩⟩ := exec_setalarm_cases _ s t h
  · cases haccepted.symm.trans hbad
  · exact absurd hready hguard
  cases haccepted.symm.trans hr'
  obtain ⟨hfail, rfl⟩ | ⟨hhang, rfl⟩ | ⟨hok, hwrite⟩ := hcase
  · exact ⟨fun hok => by simp [hfail] at hok, fun _ => hctrl.answered ..⟩
  · exact ⟨fun hok => by simp [hhang] at hok, fun _ => hctrl.of_trace_eq rfl⟩
  · refine ⟨fun _ => ?_, absurd hok⟩
    rw [hok] at hfields
    obtain ⟨-, rfl⟩ | ⟨-, rfl⟩ | ⟨-, rfl⟩ := hwrite
    · exact (hfields.of_trace_eq rfl).answered ..
    · exact hfields.answered ..
    · exact hfields.of_trace_eq rfl

/-- The deferred run issues one read of all 18 registers, whatever the answer (R128). -/
theorem callsMade_stepRun (s t : State) (h : stepRun s = .next t) :
    Claims.CallsMade s t [.burstRead 0x51 0x00 18 s.transferAnswer] := by
  have hissued := (Claims.CallsMade.refl s).issueRead 0x00 18
  obtain ⟨_, -, -, rfl⟩ | ⟨-, rfl⟩ | ⟨-, rfl⟩ := stepRun_cases s t h
  · exact (hissued.emit_other (.snapshot _) rfl).of_trace_eq rfl
  · exact hissued.of_trace_eq rfl
  · exact hissued.of_trace_eq rfl

/-! ### The statements -/

/-- Settles O31: the bounds check is R35's, VRANGE follows it, and the legal pairs are counted length by length. -/
theorem vrangeAnswersBounds : Obligations.VrangeAnswersBounds :=
  ⟨fun start len s => ⟨rangeOk_iff_inRange start len, exec_vrange_of_inRange start len s,
      exec_vrange_of_not_inRange start len s, encodeWord_vrange_toNat start len⟩,
    by decide, by decide, rangeOk_of_start_ge, by decide, sum_countP_rangeOk⟩

/-- Settles O43: one lemma per kind of command, each from the cases of that command's meaning. -/
theorem transfersPerCommand : Obligations.TransfersPerCommand := fun s t _ =>
  ⟨fun i => callsMade_of_isPure i s t, fun i => callsMade_of_badArguments i s t,
    fun i => callsMade_of_not_ready i s t, fun start len => callsMade_read start len s t,
    fun start bs => callsMade_write start bs s t, fun r => callsMade_init r s t,
    fun r => callsMade_setalarm r s t, callsMade_stepRun s t⟩

end Sys2Proof.Machine
end

section
/-! SUPPORT. Proofs of the statements on spec/30_encoding.md: the opcode map (R57), the illegal words (R62), the response
word and what it may hold (R59 to R61). First the facts they need: the rows of the opcode map, the fields of a word as
numbers, and the place of each field of a response. -/

namespace Sys2Proof

/-! ### The rows of the opcode map -/

/-- In every row the mask keeps all of `OP`, and the match has the row's own `OP` (R57). -/
theorem opField_of_mem_opcodeRows (r : Row) (hr : r ∈ opcodeRows) :
    opField r.mask = BitVec.allOnes 4 ∧ opField r.pattern = r.code := by
  revert r
  decide

/-- The rows differ in `OP` (R57). -/
theorem eq_of_code_eq (r r' : Row) (hr : r ∈ opcodeRows) (hr' : r' ∈ opcodeRows) (hcode : r.code = r'.code) :
    r = r' :=
  List.inj_on_of_nodup_map (by decide : (opcodeRows.map Row.code).Nodup) hr hr' hcode

/-- No operation has two rows (R57). -/
theorem eq_of_op_eq (r r' : Row) (hr : r ∈ opcodeRows) (hr' : r' ∈ opcodeRows) (hop : r.op = r'.op) : r = r' :=
  List.inj_on_of_nodup_map (by decide : (opcodeRows.map Row.op).Nodup) hr hr' hop

/-- A word that matches a row has that row's `OP`. -/
theorem opField_of_match (w : CmdWord) (r : Row) (hr : r ∈ opcodeRows) (hmatch : w &&& r.mask = r.pattern) :
    opField w = r.code := by
  obtain ⟨hmask, hpattern⟩ := opField_of_mem_opcodeRows r hr
  have hand := opField_and w r.mask
  rw [hmatch, hmask, hpattern, BitVec.and_allOnes] at hand
  exact hand.symm

/-- The row that decoding looks up for a word with a row's `OP` is that row. -/
theorem find?_code_of_mem (r : Row) (hr : r ∈ opcodeRows) :
    opcodeRows.find? (fun x => x.code == r.code) = some r := by
  revert r
  decide

/-- What decoding looks up is a row that the word matches (R65). -/
theorem exists_row_of_opOf (w : CmdWord) (op : Op) (h : opOf w = some op) :
    ∃ r ∈ opcodeRows, r.op = op ∧ w &&& r.mask = r.pattern := by
  unfold opOf at h
  split at h
  · cases h
  · next r hfind =>
    split at h
    · next hmatch => exact ⟨r, List.mem_of_find?_eq_some hfind, Option.some.inj h, hmatch⟩
    · cases h

/-- A word is the command of a row exactly when it matches under the row's mask (R57). -/
theorem opOf_eq_some_iff_match (w : CmdWord) (r : Row) (hr : r ∈ opcodeRows) :
    opOf w = some r.op ↔ w &&& r.mask = r.pattern := by
  constructor
  · intro h
    obtain ⟨r', hr', hop, hmatch⟩ := exists_row_of_opOf w r.op h
    rwa [eq_of_op_eq r' r hr' hr hop] at hmatch
  · intro hmatch
    simp only [opOf, opField_of_match w r hr hmatch, find?_code_of_mem r hr, hmatch, if_true]

/-- At most one row matches a word (R57). -/
theorem row_unique_of_match (w : CmdWord) (r r' : Row) (hr : r ∈ opcodeRows) (hr' : r' ∈ opcodeRows)
    (hmatch : w &&& r.mask = r.pattern) (hmatch' : w &&& r'.mask = r'.pattern) : r = r' :=
  eq_of_code_eq r r' hr hr' ((opField_of_match w r hr hmatch).symm.trans (opField_of_match w r' hr' hmatch'))

/-! ### The fields of a word as numbers, and the illegal words -/

theorem opField_toNat (w : CmdWord) : (opField w).toNat = w.toNat / 2 ^ 28 := by
  simp only [opField, BitVec.extractLsb'_toNat, Nat.shiftRight_eq_div_pow]
  omega

theorem pField_toNat (w : CmdWord) : (pField w).toNat = w.toNat / 2 ^ 27 % 2 := by
  simp only [pField, BitVec.getLsbD, Nat.toNat_testBit]

theorem zField_toNat (w : CmdWord) : (zField w).toNat = w.toNat / 2 ^ 16 % 2 ^ 11 := by
  simp only [zField, BitVec.extractLsb'_toNat, Nat.shiftRight_eq_div_pow]

theorem aField_toNat (w : CmdWord) : (aField w).toNat = w.toNat / 2 ^ 8 % 2 ^ 8 := by
  simp only [aField, BitVec.extractLsb'_toNat, Nat.shiftRight_eq_div_pow]

theorem nField_toNat (w : CmdWord) : (nField w).toNat = w.toNat % 2 ^ 8 := by
  simp only [nField, BitVec.extractLsb'_toNat, Nat.shiftRight_zero]

/-- Some bit of `A` that VTIME reserves is 1 exactly from 2 on. -/
theorem and_0xFE_ne_zero_iff (a : Byte) : ¬ a &&& 0xFE#8 = 0#8 ↔ 2 ≤ a.toNat := by
  revert a
  decide

/-- Every `OP` is that of a row or one of R62's five reserved ones. -/
theorem opField_cases (w : CmdWord) :
    (opField w = 0 ∨ 12 ≤ (opField w).toNat) ∨ opField w = 1 ∨ opField w = 2 ∨ opField w = 3 ∨ opField w = 4
      ∨ opField w = 5 ∨ opField w = 6 ∨ opField w = 7 ∨ opField w = 8 ∨ opField w = 9 ∨ opField w = 10
      ∨ opField w = 11 := by
  generalize opField w = op
  revert op
  decide

/-- R62's list, on the fields of the word. -/
theorem illegalWord_iff_fields (w : CmdWord) :
    Claims.IllegalWord w ↔ (opField w = 0 ∨ 12 ≤ (opField w).toNat) ∨ zField w ≠ 0
      ∨ (pField w = true ∧ (opField w = 1 ∨ opField w = 2 ∨ opField w = 7))
      ∨ (pField w = false ∧ (opField w = 3 ∨ opField w = 4 ∨ opField w = 5 ∨ opField w = 6))
      ∨ (aField w ≠ 0 ∧ (opField w = 3 ∨ opField w = 4 ∨ opField w = 6 ∨ opField w = 8 ∨ opField w = 11))
      ∨ (2 ≤ (aField w).toNat ∧ opField w = 5)
      ∨ (nField w ≠ 0 ∧ (opField w = 1 ∨ opField w = 2))
      ∨ (nField w ≠ 3 ∧ opField w = 3)
      ∨ (nField w ≠ 7 ∧ (opField w = 5 ∨ opField w = 8))
      ∨ (nField w ≠ 5 ∧ opField w = 6) := by
  have hset : pField w = true ↔ (pField w).toNat = 1 := by cases pField w <;> decide
  have hclear : pField w = false ↔ (pField w).toNat = 0 := by cases pField w <;> decide
  simp only [hset, hclear, ← BitVec.toNat_inj, or_assoc, opField_toNat, pField_toNat, zField_toNat, aField_toNat,
    nField_toNat, ne_eq]
  exact Iff.rfl

/-- The illegal words are exactly those that belong to no row of the opcode map (R62). -/
theorem illegalWord_iff_opOf_eq_none (w : CmdWord) : Claims.IllegalWord w ↔ opOf w = none := by
  rw [illegalWord_iff_fields]
  obtain hop | hop | hop | hop | hop | hop | hop | hop | hop | hop | hop | hop := opField_cases w
  · simp only [opOf_reserved w hop, hop, true_or]
  · simp [hop, opOf_of_enc w hop, imp_iff_not_or, or_left_comm]
  · simp [hop, opOf_of_dec w hop, imp_iff_not_or, or_left_comm]
  · simp [hop, opOf_of_month w hop, imp_iff_not_or, or_left_comm]
  · simp [hop, opOf_of_parse w hop, imp_iff_not_or, or_left_comm]
  · simp [hop, opOf_of_vtime w hop, and_0xFE_ne_zero_iff, imp_iff_not_or, or_left_comm]
  · simp [hop, opOf_of_valarm w hop, imp_iff_not_or, or_left_comm]
  · simp [hop, opOf_of_vrange w hop, imp_iff_not_or, or_comm]
  · simp [hop, opOf_of_init w hop, imp_iff_not_or, or_left_comm]
  · simp [hop, opOf_of_read w hop]
  · simp [hop, opOf_of_write w hop]
  · simp [hop, opOf_of_setalarm w hop, imp_iff_not_or]

/-! ### Every word with its operand bytes is decoded -/

/-- Seven bytes are a TimeRecord (R51). -/
theorem exists_timeRecordOfBytes : ∀ din : List Byte, din.length = 7 →
    ∃ record, timeRecordOfBytes din = some record
  | [_, _, _, _, _, _, _], _ => ⟨_, rfl⟩

/-- Five bytes are an AlarmRecord (R52). -/
theorem exists_alarmRecordOfBytes : ∀ din : List Byte, din.length = 5 →
    ∃ record, alarmRecordOfBytes din = some record
  | [_, _, _, _, _], _ => ⟨_, rfl⟩

/-- As many operand bytes as `DLEN` asks for always make a command (R58). -/
theorem exists_assemble (op : Op) (w : CmdWord) (din : List Byte)
    (hlen : din.length = dlenOf op (pField w) (nField w)) : ∃ i, assemble op w din = some i := by
  cases op with
  | enc | dec | parse | vrange | read | write | setalarm => exact ⟨_, rfl⟩
  | month =>
    obtain ⟨c0, c1, c2, rfl⟩ := List.length_eq_three.mp hlen
    exact ⟨_, rfl⟩
  | vtime =>
    obtain ⟨record, hrecord⟩ := exists_timeRecordOfBytes din hlen
    exact ⟨_, by rw [assemble, hrecord]; rfl⟩
  | valarm =>
    obtain ⟨record, hrecord⟩ := exists_alarmRecordOfBytes din hlen
    exact ⟨_, by rw [assemble, hrecord]; rfl⟩
  | init =>
    cases hp : pField w with
    | false => exact ⟨_, by rw [assemble, hp]; rfl⟩
    | true =>
      rw [hp] at hlen
      obtain ⟨record, hrecord⟩ := exists_timeRecordOfBytes din hlen
      exact ⟨_, by rw [assemble, hp, hrecord]; rfl⟩

/-- An illegal word asks for no operand bytes (R58). -/
theorem dlen_of_opOf_eq_none (w : CmdWord) (h : opOf w = none) : dlen w = 0 := by
  simp only [dlen, h]

/-- An illegal word is told as such (R62). -/
theorem decode_of_opOf_eq_none (w : CmdWord) (h : opOf w = none) : decode w [] = .illegalWord := by
  simp only [decode, dlen_of_opOf_eq_none w h, h, List.length_nil, if_true]

/-- A word of a row with its operand bytes is a command (R65). -/
theorem exists_decode_of_opOf (w : CmdWord) (din : List Byte) (h : opOf w ≠ none) (hlen : din.length = dlen w) :
    ∃ i, decode w din = .instr i := by
  obtain ⟨op, hop⟩ := Option.ne_none_iff_exists'.mp h
  have hdlen : dlen w = dlenOf op (pField w) (nField w) := by simp only [dlen, hop]
  obtain ⟨i, hi⟩ := exists_assemble op w din (hlen.trans hdlen)
  exact ⟨i, by simp only [decode, hlen, hop, hi, if_true]⟩

end Sys2Proof

namespace Sys2Proof.Machine

/-- A step on a command that the block accepts and that is an illegal word: one response, and no effect (R62). -/
theorem step_of_illegalWord (s : State) (w : CmdWord) (rest : List Event) (hillegal : Claims.IllegalWord w)
    (hh : s.hung = false) (ha : s.agenda = .command w [] :: rest) :
    step s = .next ((s.setAgenda rest).answered .illegalCommand .plain 0 []) := by
  have hdecode := decode_of_opOf_eq_none w ((illegalWord_iff_opOf_eq_none w).mp hillegal)
  rw [step_of_agenda_cons s _ rest ha]
  simp only [takeEvent, acceptCommand, State.setAgenda_hung, hh, hdecode]
  rfl

/-! ### The response word -/

/-- The number of a response word (R59). -/
theorem Response.word_toNat (r : Response) :
    r.word.toNat = r.err.code.toNat * 2 ^ 12 + r.detail.code.toNat * 2 ^ 8 + r.val.toNat := by
  have hval : r.val.toNat < 2 ^ 8 := r.val.isLt
  have hdetail : r.detail.code.toNat < 2 ^ 4 := r.detail.code.isLt
  rw [Response.word, BitVec.toNat_append, BitVec.toNat_append, ← Nat.shiftLeft_add_eq_or_of_lt hval,
    ← Nat.shiftLeft_add_eq_or_of_lt hdetail, Nat.shiftLeft_eq, Nat.shiftLeft_eq]
  omega

/-- `ERR` is `RSP[15:12]`. -/
theorem Response.word_err (r : Response) : r.word.toNat / 2 ^ 12 = r.err.code.toNat := by
  have hval : r.val.toNat < 2 ^ 8 := r.val.isLt
  have hdetail : r.detail.code.toNat < 2 ^ 4 := r.detail.code.isLt
  rw [r.word_toNat]
  omega

/-- `DETAIL` is `RSP[11:8]`. -/
theorem Response.word_detail (r : Response) : r.word.toNat / 2 ^ 8 % 2 ^ 4 = r.detail.code.toNat := by
  have hval : r.val.toNat < 2 ^ 8 := r.val.isLt
  have hdetail : r.detail.code.toNat < 2 ^ 4 := r.detail.code.isLt
  rw [r.word_toNat]
  omega

/-- `VAL` is `RSP[7:0]`. -/
theorem Response.word_val (r : Response) : r.word.toNat % 2 ^ 8 = r.val.toNat := by
  have hval : r.val.toNat < 2 ^ 8 := r.val.isLt
  rw [r.word_toNat]
  omega

/-- A result code is known by its number (R60). -/
theorem ErrCode.eq_iff_code (e e' : ErrCode) : e = e' ↔ e.code.toNat = e'.code.toNat := by
  cases e <;> cases e' <;> decide

/-- The numbers 0x5 to 0xE are no result codes (R60). -/
theorem ErrCode.code_not_reserved (e : ErrCode) : ¬ (0x5 ≤ e.code.toNat ∧ e.code.toNat ≤ 0xE) := by
  cases e <;> decide

/-! ### What a response may hold -/

/-- What R59 and R61 allow a response to a command to hold, by the guard state in which the command began. -/
def Response.Fits (r : Response) (i : Instr) (guard : GuardState) : Prop :=
  (r.err ≠ .ok → r.dout = [])
    ∧ (r.err ≠ .ok → (∀ init rec, i ≠ .vtime init rec) → (∀ rec, i ≠ .valarm rec) → r.val = 0)
    ∧ (r.err = .ok → r.val ≠ 0 → (∃ v, i = .enc v) ∨ (∃ b, i = .dec b) ∨ ∃ c0 c1 c2, i = .month c0 c1 c2)
    ∧ (r.err = .ok → r.dout ≠ [] → (∃ date time, i = .parse date time) ∨ ∃ p a n, i = .read p a n)
    ∧ (∀ date time, i = .parse date time → r.err = .ok ∧ r.dout.length = 7)
    ∧ (∀ p a n, i = .read p a n → r.err = .ok → r.dout.length = n.toNat)
    ∧ (r.detail = .i2cDevice ∨ r.detail = .irqLine → r.err = .deviceSetupError ∧ ∃ rec, i = .init rec)
    ∧ (r.detail = .guard → r.err = .deviceSetupError ∧ guard ≠ .ready
        ∧ ((∃ p a n, i = .read p a n) ∨ (∃ a src, i = .write a src) ∨ ∃ src, i = .setalarm src))
    ∧ (r.detail = .notBcd → r.err = .ok)
    ∧ (r.detail = .notBcd ↔ ∃ b, i = .dec b ∧ bcdValid b = false)
    ∧ (r.err = .deviceSetupError → r.detail ≠ .plain)
    ∧ r.err ≠ .illegalCommand

/-- A command ends in this state hung, without a response, or with a fitting response as the newest output (R59). -/
def State.EndsFitting (t : State) (i : Instr) (guard : GuardState) : Prop :=
  ∀ r, t.hung = false → t.trace.head? = some (.response r) → r.Fits i guard

section
variable {u : State} {i : Instr} {guard : GuardState} {err : ErrCode} {detail : Detail} {val : Byte} {dout : List Byte}

/-- A command that hangs gives no response. -/
theorem State.endsFitting_hung : (u.setHung true).EndsFitting i guard :=
  fun _ hhung => Bool.noConfusion hhung

theorem State.endsFitting_answered (hfits : Response.Fits ⟨err, detail, val, dout⟩ i guard) :
    (u.answered err detail val dout).EndsFitting i guard := by
  intro r _ hr
  cases hr
  exact hfits

/-- A result code with nothing else fits every command but DEC and PARSE, and READ when it is an error. -/
theorem State.endsFitting_plain (herr : err ≠ .deviceSetupError ∧ err ≠ .illegalCommand)
    (hop : i.op ≠ .dec ∧ i.op ≠ .parse) (hread : i.op = .read → err ≠ .ok) :
    (u.answered err .plain 0 []).EndsFitting i guard := by
  obtain ⟨hsetup, hillegal⟩ := herr
  obtain ⟨hdec, hparse⟩ := hop
  refine State.endsFitting_answered ⟨fun _ => rfl, fun _ _ _ => rfl, fun _ hval => absurd rfl hval,
    fun _ hdout => absurd rfl hdout, ?parse, ?read, nofun, nofun, nofun, ⟨nofun, ?dec⟩,
    fun h => absurd h hsetup, hillegal⟩
  case parse =>
    rintro date time rfl
    exact absurd rfl hparse
  case read =>
    rintro p a n rfl hok
    exact absurd hok (hread rfl)
  case dec =>
    rintro ⟨b, rfl, -⟩
    exact absurd rfl hdec

/-- The refusal of READ, WRITE and SETALARM outside `Ready` fits them (R61). -/
theorem State.endsFitting_guard (hguard : guard ≠ .ready)
    (hi : (∃ p a n, i = .read p a n) ∨ (∃ a src, i = .write a src) ∨ ∃ src, i = .setalarm src) :
    (u.answered .deviceSetupError .guard 0 []).EndsFitting i guard := by
  refine State.endsFitting_answered ?_
  obtain ⟨p, a, n, rfl⟩ | ⟨a, src, rfl⟩ | ⟨src, rfl⟩ := hi <;> simp [Response.Fits, hguard]

/-- The answer to a failing-field mask fits VTIME and VALARM (R93, R94). -/
theorem endsFitting_respondMask {s t : State} {mask : Byte}
    (hi : (∃ init rec, i = .vtime init rec) ∨ ∃ rec, i = .valarm rec) (h : s.respondMask mask = .next t) :
    t.EndsFitting i guard := by
  cases (s.respondMask_eq mask).symm.trans h
  refine State.endsFitting_answered ?_
  split
  · next hmask => obtain ⟨init, record, rfl⟩ | ⟨record, rfl⟩ := hi <;> simp [Response.Fits, hmask]
  · obtain ⟨init, record, rfl⟩ | ⟨record, rfl⟩ := hi <;> simp [Response.Fits]

end

/-- A pure command gives its one response, which fits it (R59, R61). -/
theorem endsFitting_of_isPure (i : Instr) (s t : State) (hpure : i.IsPure) (h : exec i s = .next t) :
    t.EndsFitting i s.gs := by
  cases i with
  | enc v =>
    cases h
    exact State.endsFitting_answered (by simp [Response.Fits])
  | dec b =>
    cases h
    refine State.endsFitting_answered ?_
    cases hb : bcdValid b <;> simp [Response.Fits, hb]
  | month c0 c1 c2 =>
    cases h
    exact State.endsFitting_answered (by simp [Response.Fits])
  | parse date time =>
    cases h
    exact State.endsFitting_answered (by simp [Response.Fits, TimeRecord.toBytes])
  | vtime init record => exact endsFitting_respondMask (.inl ⟨init, record, rfl⟩) h
  | valarm record => exact endsFitting_respondMask (.inr ⟨record, rfl⟩) h
  | vrange start len =>
    by_cases hr : Claims.InRange start.toNat len.toNat
    · cases (exec_vrange_of_inRange start len s hr).symm.trans h
      exact State.endsFitting_plain (by decide) ⟨nofun, nofun⟩ nofun
    · cases (exec_vrange_of_not_inRange start len s hr).symm.trans h
      exact State.endsFitting_plain (by decide) ⟨nofun, nofun⟩ nofun
  | init | read | write | setalarm => exact hpure.elim

/-- What READ answers fits it: on `OK` as many bytes as it read (R59, R103). -/
theorem endsFitting_read (present : Bool) (start len : Byte) (s t : State)
    (h : exec (.read present start len) s = .next t) : t.EndsFitting (.read present start len) s.gs := by
  obtain ⟨-, rfl⟩ | ⟨-, -, hguard, rfl⟩ | ⟨-, -, -, ⟨bytes, -, hbytes, rfl⟩ | ⟨-, rfl⟩ | ⟨-, rfl⟩⟩ :=
    exec_read_cases present start len s t h
  · exact State.endsFitting_plain (by decide) ⟨nofun, nofun⟩ (fun _ => nofun)
  · exact State.endsFitting_guard hguard (.inl ⟨present, start, len, rfl⟩)
  · have hlen := Memory.readRange_length _ _ _ bytes hbytes
    exact State.endsFitting_answered (by simp [Response.Fits, hlen])
  · exact State.endsFitting_plain (by decide) ⟨nofun, nofun⟩ (fun _ => nofun)
  · exact State.endsFitting_hung

/-- What WRITE answers fits it (R61, R104). -/
theorem endsFitting_write (start : Byte) (src : Source) (s t : State) (h : exec (.write start src) s = .next t) :
    t.EndsFitting (.write start src) s.gs := by
  obtain ⟨-, rfl⟩ | ⟨_, -, -, ⟨hguard, rfl⟩ | ⟨-, ⟨-, -, rfl⟩ | ⟨-, rfl⟩ | ⟨-, rfl⟩⟩⟩ :=
    exec_write_cases start src s t h
  · exact State.endsFitting_plain (by decide) ⟨nofun, nofun⟩ nofun
  · exact State.endsFitting_guard hguard (.inr (.inl ⟨start, src, rfl⟩))
  · exact State.endsFitting_plain (by decide) ⟨nofun, nofun⟩ nofun
  · exact State.endsFitting_plain (by decide) ⟨nofun, nofun⟩ nofun
  · exact State.endsFitting_hung

/-- What SETALARM answers fits it (R61, R105). -/
theorem endsFitting_setalarm (src : Source) (s t : State) (h : exec (.setalarm src) s = .next t) :
    t.EndsFitting (.setalarm src) s.gs := by
  obtain ⟨-, rfl⟩ | ⟨_, -, ⟨hguard, rfl⟩ | ⟨-, ⟨-, rfl⟩ | ⟨-, rfl⟩ | ⟨-, ⟨-, rfl⟩ | ⟨-, rfl⟩ | ⟨-, rfl⟩⟩⟩⟩ :=
    exec_setalarm_cases src s t h
  · exact State.endsFitting_plain (by decide) ⟨nofun, nofun⟩ nofun
  · exact State.endsFitting_guard hguard (.inr (.inr ⟨src, rfl⟩))
  · exact State.endsFitting_plain (by decide) ⟨nofun, nofun⟩ nofun
  · exact State.endsFitting_hung
  · exact State.endsFitting_plain (by decide) ⟨nofun, nofun⟩ nofun
  · exact State.endsFitting_plain (by decide) ⟨nofun, nofun⟩ nofun
  · exact State.endsFitting_hung

/-- What INIT answers fits it: the sub-codes of the two set-up questions are its own (R61, R102). -/
theorem endsFitting_init (record : Option TimeRecord) (s t : State) (h : exec (.init record) s = .next t) :
    t.EndsFitting (.init record) s.gs := by
  obtain ⟨-, rfl⟩ | ⟨_, -, -, ⟨-, rfl⟩ | ⟨-, ⟨-, rfl⟩ | ⟨-, ⟨-, rfl⟩ | ⟨-, rfl⟩ | ⟨-, rfl⟩⟩⟩⟩ :=
    exec_init_cases record s t h
  · exact State.endsFitting_plain (by decide) ⟨nofun, nofun⟩ nofun
  · exact State.endsFitting_answered (by simp [Response.Fits])
  · exact State.endsFitting_answered (by simp [Response.Fits])
  · exact State.endsFitting_plain (by decide) ⟨nofun, nofun⟩ nofun
  · exact State.endsFitting_plain (by decide) ⟨nofun, nofun⟩ nofun
  · exact State.endsFitting_hung

/-- Whatever a command answers fits it. -/
theorem endsFitting_exec (i : Instr) (s t : State) (h : exec i s = .next t) : t.EndsFitting i s.gs := by
  cases i with
  | init record => exact endsFitting_init record s t h
  | read present start len => exact endsFitting_read present start len s t h
  | write start src => exact endsFitting_write start src s t h
  | setalarm src => exact endsFitting_setalarm src s t h
  | enc | dec | month | parse | vtime | valarm | vrange => exact endsFitting_of_isPure _ s t trivial h

/-! ### The statements -/

/-- Settles O3: decoding looks up the one row with the word's `OP`, and every mask keeps `OP`. -/
theorem opcodeMapMatchesByMask : Obligations.OpcodeMapMatchesByMask :=
  ⟨fun w => List.forall_iff_forall_mem.mpr (opOf_eq_some_iff_match w), row_unique_of_match⟩

/-- Settles O4: R62's list is the words of no row, by their fields, and every other word with its operand bytes decodes. -/
theorem illegalWordsAreAnswered : Obligations.IllegalWordsAreAnswered :=
  ⟨step_of_illegalWord,
    fun w din hlegal => exists_decode_of_opOf w din (mt (illegalWord_iff_opOf_eq_none w).mpr hlegal),
    fun w hillegal => dlen_of_opOf_eq_none w ((illegalWord_iff_opOf_eq_none w).mp hillegal),
    by decide, .inl (by decide), .inr (.inl (by decide))⟩

/-- Settles O7: the fields of `RSP` by arithmetic, and the numbers of the codes. -/
theorem resultCodesInResponseWord : Obligations.ResultCodesInResponseWord := by
  intro r
  rw [r.word_err, r.word_detail, r.word_val]
  refine ⟨r.word_toNat, r.err.eq_iff_code .ok, r.err.eq_iff_code .invalidParameter,
    r.err.eq_iff_code .deviceSetupError, r.err.eq_iff_code .i2cWriteError, r.err.eq_iff_code .i2cReadError,
    r.err.eq_iff_code .illegalCommand, r.err.code_not_reserved, rfl, ?_, ?_, ?_, ?_, ?_⟩
  all_goals exact fun hdetail => by rw [hdetail]; rfl

/-- Settles O46, command by command: each answer is one of those the command's meaning lists. -/
theorem responseFieldsFit : Obligations.ResponseFieldsFit :=
  fun i s t r _ h => endsFitting_exec i s t h r

end Sys2Proof.Machine
end

section
/-! SUPPORT. Proofs of the statements on spec/40_bcd_codec.md: ENC (R70), and the pure commands (R74). First the digits of
an encoded number and what the block does with a command while hung. -/

namespace Sys2Proof.Machine

/-! ### The digits of an encoded number -/

/-- An encoded number: the units digit fills the four bits that the shift leaves free, and eight bits are kept (R70). -/
theorem bcdEncode_toNat (n : Nat) : (bcdEncode n).toNat = (n / 10 * 16 + n % 10) % 256 := by
  have hunits : n % 10 < 2 ^ 4 := by omega
  rw [bcdEncode, BitVec.toNat_ofNat, ← Nat.shiftLeft_add_eq_or_of_lt hunits, Nat.shiftLeft_eq]

/-- The tens digit of an encoded number, cut to four bits. -/
theorem bcdEncode_toNat_div (n : Nat) : (bcdEncode n).toNat / 16 = n / 10 % 16 := by
  rw [bcdEncode_toNat]
  omega

/-- The units digit of an encoded number is never cut. -/
theorem bcdEncode_toNat_mod (n : Nat) : (bcdEncode n).toNat % 16 = n % 10 := by
  rw [bcdEncode_toNat]
  omega

/-- A number of two decimal digits is encoded as a digit pair. -/
theorem isBcd_bcdEncode (n : Nat) (hn : n ≤ 99) : Claims.IsBcd (bcdEncode n) := by
  rw [Claims.IsBcd, bcdEncode_toNat_div, bcdEncode_toNat_mod]
  omega

/-- From 100 to 159 the tens digit is above 9, and still whole. -/
theorem le_bcdEncode_toNat_div (n : Nat) (hlow : 100 ≤ n) (hhigh : n ≤ 159) : 0xA ≤ (bcdEncode n).toNat / 16 := by
  rw [bcdEncode_toNat_div]
  omega

/-- The number of ENC's command word (R57): `OP` 1, and the byte in `A`. -/
theorem encodeWord_enc_toNat (v : Byte) : (encodeWord (.enc v)).toNat = 0x10000000 + v.toNat * 0x100 := by
  rw [encodeWord, packWord_toNat]
  simp

/-! ### Commands while hung -/

/-- A hung block takes no command, whatever it is: it is dropped, and nothing else happens (R17). -/
theorem step_of_command_hung (s : State) (w : CmdWord) (din : List Byte) (rest : List Event) (hh : s.hung = true)
    (ha : s.agenda = .command w din :: rest) : step s = .next (s.setAgenda rest) := by
  rw [step_of_agenda_cons s _ rest ha]
  exact if_pos hh

/-! ### The statements -/

/-- Settles O18: ENC answers the encoded byte by definition; its digits are those of the number. -/
theorem encAnswersTruncatedBcd : Obligations.EncAnswersTruncatedBcd :=
  fun v _ => ⟨bcdEncode v.toNat, rfl, bcdEncode_toNat v.toNat, isBcd_bcdEncode v.toNat,
    le_bcdEncode_toNat_div v.toNat, bcdEncode_toNat_div v.toNat, bcdEncode_toNat_mod v.toNat, encodeWord_enc_toNat v⟩

/-- Settles O26: a pure command's response is chosen before the state, and a hung block drops every command. -/
theorem pureCommandsIgnoreState : Obligations.PureCommandsIgnoreState :=
  ⟨exec_of_isPure, step_of_command_hung⟩

/-- Settles O48: a pure command only gives its response, and giving a response changes nothing but the trace. -/
theorem pureCommandsFrame : Obligations.PureCommandsFrame := by
  intro i s t hpure h
  obtain ⟨r, hr⟩ := exec_of_isPure i hpure
  cases (hr s).symm.trans h
  exact ⟨s.emit_gs _, s.emit_hc _, s.emit_irqEn _, s.emit_workPending _, s.emit_alarmFired _, s.emit_hung _,
    s.emit_env _, s.emit_agenda _, fun a => congrArg (Memory.read · a) (s.emit_dev _), r, s.emit_trace _⟩

end Sys2Proof.Machine
end

section
/-! SUPPORT. Proof of the statement on MONTH (spec/41_timestamp.md R80, R81). First the month table against the calendar's
list of names, and what a lookup in it finds. -/

namespace Sys2Proof.Machine

/-! ### The month table -/

/-- The table lists the twelve names in calendar order (R81). -/
theorem monthTable_names : monthTable.map Prod.fst = Claims.monthNames := by
  decide

/-- Each row's number is the place of its name in the calendar (R81). -/
theorem isMonthOf_row : ∀ row ∈ monthTable, 1 ≤ row.2 ∧ row.2 ≤ 12 ∧ Claims.monthNames[row.2 - 1]? = some row.1 := by
  decide

/-- A lookup finds a name's number, and 0 when no row has the name, whatever the length of the string (R80). -/
theorem isMonthOf_monthFromName (name : List Byte) : Claims.IsMonthOf name (monthFromName name) := by
  unfold monthFromName
  split
  · next row hfind =>
    have hname : row.1 = name := by simpa using List.find?_some hfind
    exact .inr (hname ▸ isMonthOf_row row (List.mem_of_find?_eq_some hfind))
  · next hfind =>
    refine .inl ⟨rfl, fun hmem => ?_⟩
    rw [← monthTable_names, List.mem_map] at hmem
    obtain ⟨row, hrow, hname⟩ := hmem
    exact List.find?_eq_none.mp hfind row hrow (beq_iff_eq.mpr hname)

/-! ### The statement -/

/-- Settles O22: MONTH answers what the lookup finds, for any three bytes. -/
theorem monthAnswersItsNumber : Obligations.MonthAnswersItsNumber :=
  fun c0 c1 c2 _ => ⟨monthFromName [c0, c1, c2], isMonthOf_monthFromName _, rfl, rfl⟩

end Sys2Proof.Machine
end

section
/-! SUPPORT. Proofs of the statements on spec/42_validator.md: BCD validity (R90), the failing-field masks (R91, R92),
and the answers of VTIME and VALARM (R93, R94). First the facts they need: a byte as its two digits, what each field
test says of the raw byte, how many bytes pass it, and the bits of a mask. -/

namespace Sys2Proof.Machine

/-! ### A byte as its two digits -/

/-- The high nibble is the quotient by 16. -/
theorem hiNibble_toNat (b : Byte) : (hiNibble b).toNat = b.toNat / 16 := by
  simp only [hiNibble, BitVec.extractLsb'_toNat, Nat.shiftRight_eq_div_pow]
  omega

/-- The low nibble is the remainder. -/
theorem loNibble_toNat (b : Byte) : (loNibble b).toNat = b.toNat % 16 := by
  simp only [loNibble, BitVec.extractLsb'_toNat, Nat.shiftRight_zero]

/-- A byte is its two nibbles. -/
theorem hiNibble_append_loNibble (b : Byte) : hiNibble b ++ loNibble b = b :=
  (BitVec.extractLsb'_append_extractLsb'_eq_extractLsb' rfl).trans BitVec.extractLsb'_eq_self

/-- `bcd_valid` says that both digits are decimal (R90). -/
theorem bcdValid_iff_isBcd (b : Byte) : bcdValid b = true ↔ Claims.IsBcd b := by
  rw [bcdValid, Bool.and_eq_true, decide_eq_true_iff, decide_eq_true_iff, hiNibble_toNat, loNibble_toNat, Claims.IsBcd]

/-- `0xF0` keeps the high nibble in its place. -/
theorem and_0xF0_toNat (b : Byte) : (b &&& 0xF0).toNat = b.toNat / 16 * 16 := by
  have hkeep : (hiNibble b ++ loNibble b) &&& (BitVec.allOnes 4 ++ 0#4) = hiNibble b ++ 0#4 := by
    rw [BitVec.and_append, BitVec.and_allOnes, BitVec.and_zero]
  rw [hiNibble_append_loNibble] at hkeep
  rw [show (0xF0 : Byte) = BitVec.allOnes 4 ++ 0#4 from rfl, hkeep, BitVec.toNat_append, hiNibble_toNat]
  simp [Nat.shiftLeft_eq]

/-- `0x0F` keeps the low nibble. -/
theorem and_0x0F_toNat (b : Byte) : (b &&& 0x0F).toNat = b.toNat % 16 :=
  (BitVec.toNat_and b 0x0F).trans (Nat.and_two_pow_sub_one_eq_mod b.toNat 4)

/-- The source's masked test says the same of the digits: the high one is compared in its place (R90). -/
theorem masked_le_iff_isBcd (b : Byte) : (b &&& 0xF0) ≤ 0x90 ∧ (b &&& 0x0F) ≤ 0x09 ↔ Claims.IsBcd b := by
  rw [BitVec.le_def, BitVec.le_def, and_0xF0_toNat, and_0x0F_toNat, Claims.IsBcd]
  change b.toNat / 16 * 16 ≤ 0x90 ∧ b.toNat % 16 ≤ 9 ↔ _
  omega

/-! ### The field tests on the raw byte (R91) -/

theorem secOk_iff (b : Byte) : secOk b = true ↔ Claims.IsBcd b ∧ b.toNat ≤ 0x59 := by
  rw [secOk, Bool.and_eq_true, bcdValid_iff_isBcd, decide_eq_true_iff]
  exact Iff.rfl

theorem hourOk_iff (b : Byte) : hourOk b = true ↔ Claims.IsBcd b ∧ b.toNat ≤ 0x23 := by
  rw [hourOk, Bool.and_eq_true, bcdValid_iff_isBcd, decide_eq_true_iff]
  exact Iff.rfl

theorem dayOk_iff (b : Byte) : dayOk b = true ↔ Claims.IsBcd b ∧ 0x01 ≤ b.toNat ∧ b.toNat ≤ 0x31 := by
  rw [dayOk, Bool.and_eq_true, Bool.and_eq_true, bcdValid_iff_isBcd, decide_eq_true_iff, decide_eq_true_iff, and_assoc]
  exact Iff.rfl

theorem weekdayOk_iff (b : Byte) : weekdayOk b = true ↔ b = 0x00 :=
  decide_eq_true_iff

theorem monthOk_iff (b : Byte) : monthOk b = true ↔ Claims.IsBcd b ∧ 0x01 ≤ b.toNat ∧ b.toNat ≤ 0x12 := by
  rw [monthOk, Bool.and_eq_true, Bool.and_eq_true, bcdValid_iff_isBcd, decide_eq_true_iff, decide_eq_true_iff,
    and_assoc]
  exact Iff.rfl

theorem yearOk_iff (init : Bool) (b : Byte) :
    yearOk init b = true ↔ Claims.IsBcd b ∧ (init = false ∨ b ≠ 0x00) := by
  rw [yearOk, Bool.and_eq_true, bcdValid_iff_isBcd, Bool.or_eq_true, Bool.not_eq_true', decide_eq_true_iff]

/-! ### How many bytes pass a field test -/

/-- How many of the numbers below `k` have a decimal units digit in base 16: ten in each whole row of sixteen, and at
most ten in the last row. -/
def unitsDecimalBelow (k : Nat) : Nat := 10 * (k / 16) + min (k % 16) 10

/-- The numbers of a range with a decimal units digit are counted by the rows below its two ends. -/
theorem countP_unitsDecimal (lo hi m : Nat) :
    (List.range m).countP (fun n => decide (lo ≤ n ∧ n < hi ∧ n % 16 ≤ 9))
      = unitsDecimalBelow (min hi m) - unitsDecimalBelow lo := by
  induction m with
  | zero => simp [unitsDecimalBelow]
  | succ m ih =>
    rw [List.range_succ, List.countP_append, ih, List.countP_singleton]
    unfold unitsDecimalBelow
    by_cases hm : lo ≤ m ∧ m < hi ∧ m % 16 ≤ 9
    · simp only [hm, and_self, decide_true, if_true]
      omega
    · simp only [hm, decide_false, Bool.false_eq_true, if_false]
      omega

/-- A test for the two-digit codes from `lo` up to `hi` passes as many bytes as that range has codes. -/
theorem countP_of_range (ok : Byte → Bool) (lo hi : Nat) (hhi : hi ≤ 256)
    (hok : ∀ b, ok b = true ↔ lo ≤ b.toNat ∧ b.toNat < hi ∧ b.toNat % 16 ≤ 9) :
    (List.range 256).countP (fun n => ok (BitVec.ofNat 8 n)) = unitsDecimalBelow hi - unitsDecimalBelow lo := by
  have hrow : ∀ n ∈ List.range 256, ok (BitVec.ofNat 8 n) = true
      ↔ decide (lo ≤ n ∧ n < hi ∧ n % 16 ≤ 9) = true := by
    intro n hn
    rw [hok, BitVec.toNat_ofNat, Nat.mod_eq_of_lt (List.mem_range.mp hn), decide_eq_true_iff]
  rw [List.countP_congr hrow, countP_unitsDecimal, min_eq_left hhi]

theorem countP_bcdValid : ((List.range 256).countP fun n => bcdValid (BitVec.ofNat 8 n)) = 100 :=
  countP_of_range bcdValid 0 0xA0 (by decide) fun b => by rw [bcdValid_iff_isBcd, Claims.IsBcd]; omega

theorem countP_secOk : ((List.range 256).countP fun n => secOk (BitVec.ofNat 8 n)) = 60 :=
  countP_of_range secOk 0 0x5A (by decide) fun b => by rw [secOk_iff, Claims.IsBcd]; omega

theorem countP_hourOk : ((List.range 256).countP fun n => hourOk (BitVec.ofNat 8 n)) = 24 :=
  countP_of_range hourOk 0 0x24 (by decide) fun b => by rw [hourOk_iff, Claims.IsBcd]; omega

theorem countP_dayOk : ((List.range 256).countP fun n => dayOk (BitVec.ofNat 8 n)) = 31 :=
  countP_of_range dayOk 0x01 0x32 (by decide) fun b => by rw [dayOk_iff, Claims.IsBcd]; omega

theorem countP_weekdayOk : ((List.range 256).countP fun n => weekdayOk (BitVec.ofNat 8 n)) = 1 :=
  countP_of_range weekdayOk 0 0x01 (by decide) fun b => by rw [weekdayOk_iff]; bv_omega

theorem countP_monthOk : ((List.range 256).countP fun n => monthOk (BitVec.ofNat 8 n)) = 12 :=
  countP_of_range monthOk 0x01 0x13 (by decide) fun b => by rw [monthOk_iff, Claims.IsBcd]; omega

/-- In a plain record any two digits are a year. -/
theorem countP_yearOk_false : ((List.range 256).countP fun n => yearOk false (BitVec.ofNat 8 n)) = 100 :=
  (List.countP_congr fun n _ => by rw [yearOk, Bool.not_false, Bool.true_or, Bool.and_true]).trans countP_bcdValid

/-- In a record that initializes the clock the year 0 is not legal. -/
theorem countP_yearOk_true : ((List.range 256).countP fun n => yearOk true (BitVec.ofNat 8 n)) = 99 :=
  countP_of_range (yearOk true) 0x01 0xA0 (by decide) fun b => by
    rw [yearOk_iff, Claims.IsBcd, Bool.true_eq_false, false_or]; bv_omega

/-! ### The bits of a mask -/

/-- Bit `i` of the number is 1 exactly when the list has a false entry `i`. -/
theorem failMask_testBit (legal : List Bool) (i : Nat) :
    (failMask legal).testBit i = decide (legal[i]? = some false) := by
  induction legal generalizing i with
  | nil => simp [failMask]
  | cons first rest ih =>
    cases i with
    | zero => cases first <;> simp [failMask]
    | succ i =>
      have hrest : ((if first then 0 else 1) + 2 * failMask rest) / 2 = failMask rest := by split <;> omega
      rw [failMask, Nat.testBit_succ, hrest, ih, List.getElem?_cons_succ]

/-- A bit inside a mask is 0 exactly when the field's test holds. -/
theorem getLsbD_failMask_eq_false_iff {w i : Nat} {legal : List Bool} {ok : Bool} (hi : i < w)
    (hok : legal[i]? = some ok) : (BitVec.ofNat w (failMask legal)).getLsbD i = false ↔ ok = true := by
  rw [BitVec.getLsbD_ofNat, failMask_testBit, hok]
  cases ok <;> simp [hi]

/-- Appending entries leaves the bits of those before them as they are. -/
theorem extractLsb'_failMask_append {n : Nat} (legal more : List Bool) (hn : legal.length ≤ n) :
    (BitVec.ofNat n (failMask (legal ++ more))).extractLsb' 0 legal.length
      = BitVec.ofNat legal.length (failMask legal) := by
  refine BitVec.eq_of_getLsbD_eq fun i hi => ?_
  rw [BitVec.getLsbD_extractLsb', BitVec.getLsbD_ofNat, BitVec.getLsbD_ofNat, failMask_testBit, failMask_testBit,
    Nat.zero_add, List.getElem?_append_left hi]
  simp [Nat.lt_of_lt_of_le hi hn]

/-- An alarm record fails in the fields in which a time record that begins with the same five bytes fails (R92). -/
theorem alarmMask_eq_extractLsb'_timeMask (a : AlarmRecord) (month year : Byte) (init : Bool) :
    alarmMask a
      = (timeMask ⟨a.seconds, a.minutes, a.hours, a.day, a.weekday, month, year⟩ init).extractLsb' 0 5 :=
  (extractLsb'_failMask_append (n := 7)
    [secOk a.seconds, secOk a.minutes, hourOk a.hours, dayOk a.day, weekdayOk a.weekday]
    [monthOk month, yearOk init year] (Nat.le_add_right 5 2)).symm

/-! ### The answer to a mask -/

/-- A mask is answered `OK` when it is 0, else in `VAL`: widened to a byte it keeps its number (R93, R94). -/
theorem State.respondMask_setWidth {w : Nat} (s : State) (mask : BitVec w) (hw : w ≤ 8) :
    (mask = 0 → s.respondMask (mask.setWidth 8) = .next (s.answered .ok .plain 0 []))
      ∧ (mask ≠ 0 →
        s.respondMask (mask.setWidth 8) = .next (s.answered .invalidParameter .plain (mask.setWidth 8) [])) := by
  have hzero : mask.setWidth 8 = 0 ↔ mask = 0 := by
    rw [← BitVec.toNat_inj, ← BitVec.toNat_inj, BitVec.toNat_setWidth_of_le hw]
    simp
  exact ⟨fun h => if_pos (hzero.mpr h), fun h => if_neg (mt hzero.mp h)⟩

/-! ### The statements -/

/-- Settles O27: a bit of the mask is its field's test, and each test passes a range of two-digit codes. -/
theorem timeMaskMarksIllegalFields : Obligations.TimeMaskMarksIllegalFields :=
  ⟨fun r init => ⟨(getLsbD_failMask_eq_false_iff (by decide) rfl).trans (secOk_iff r.seconds),
      (getLsbD_failMask_eq_false_iff (by decide) rfl).trans (secOk_iff r.minutes),
      (getLsbD_failMask_eq_false_iff (by decide) rfl).trans (hourOk_iff r.hours),
      (getLsbD_failMask_eq_false_iff (by decide) rfl).trans (dayOk_iff r.day),
      (getLsbD_failMask_eq_false_iff (by decide) rfl).trans (weekdayOk_iff r.weekday),
      (getLsbD_failMask_eq_false_iff (by decide) rfl).trans (monthOk_iff r.month),
      (getLsbD_failMask_eq_false_iff (by decide) rfl).trans (yearOk_iff init r.year)⟩,
    countP_secOk, countP_hourOk, countP_dayOk, countP_weekdayOk, countP_monthOk, countP_yearOk_false,
    countP_yearOk_true⟩

/-- Settles O28: the bits are the tests of the first five fields, and the fields after them do not touch these bits. -/
theorem alarmMaskMarksIllegalFields : Obligations.AlarmMaskMarksIllegalFields :=
  fun a => ⟨(getLsbD_failMask_eq_false_iff (by decide) rfl).trans (secOk_iff a.seconds),
    (getLsbD_failMask_eq_false_iff (by decide) rfl).trans (secOk_iff a.minutes),
    (getLsbD_failMask_eq_false_iff (by decide) rfl).trans (hourOk_iff a.hours),
    (getLsbD_failMask_eq_false_iff (by decide) rfl).trans (dayOk_iff a.day),
    (getLsbD_failMask_eq_false_iff (by decide) rfl).trans (weekdayOk_iff a.weekday),
    alarmMask_eq_extractLsb'_timeMask a 0x01 0x01 false⟩

/-- Settles O21: both forms of the test compare the two digits with 9, and the legal bytes lie below `0xA0`. -/
theorem bcdValidIsTheDigitPairTest : Obligations.BcdValidIsTheDigitPairTest :=
  ⟨fun b => ⟨bcdValid_iff_isBcd b, (bcdValid_iff_isBcd b).trans (masked_le_iff_isBcd b).symm⟩, countP_bcdValid⟩

/-- Settles O29: the answer to the mask, whose seven bits leave bit 7 of `VAL` zero. -/
theorem vtimeAnswersItsMask : Obligations.VtimeAnswersItsMask := by
  intro init r s
  obtain ⟨hzero, hillegal⟩ := s.respondMask_setWidth (timeMask r init) (by decide)
  have hbit : ((timeMask r init).setWidth 8).getLsbD 7 = false := by
    rw [BitVec.getLsbD_setWidth, BitVec.getLsbD_of_ge _ 7 (Nat.le_refl 7), Bool.and_false]
  exact ⟨hzero, fun h => ⟨_, BitVec.toNat_setWidth_of_le (by decide), hbit, hillegal h⟩, by cases init <;> rfl⟩

/-- Settles O30: the answer to the mask, a number of five bits. -/
theorem valarmAnswersItsMask : Obligations.ValarmAnswersItsMask := by
  intro a s
  obtain ⟨hzero, hillegal⟩ := s.respondMask_setWidth (alarmMask a) (by decide)
  have hval : ((alarmMask a).setWidth 8).toNat = (alarmMask a).toNat := BitVec.toNat_setWidth_of_le (by decide)
  exact ⟨hzero, fun h => ⟨_, hval, hval.trans_lt (alarmMask a).isLt, hillegal h⟩, rfl⟩

end Sys2Proof.Machine
end

section
/-! SUPPORT. Proofs of the statements on spec/43_register_access.md: the argument checks (R100), the guard (R101, R109),
READ (R103), WRITE (R104) and the hang of a transfer (R108). First what each guarded command does once its checks are
decided: one equation per outcome. -/

namespace Sys2Proof.Machine

/-! ### READ (R103) -/

/-- Outside `Ready` a READ with good arguments is refused (R103 line 2). -/
theorem exec_read_of_not_ready (start len : Byte) (s : State) (hr : Claims.InRange start.toNat len.toNat)
    (hguard : s.gs ≠ .ready) :
    exec (.read true start len) s = .next (s.answered .deviceSetupError .guard 0 []) := by
  simp only [exec, execRead, (rangeOk_iff_inRange start len).mpr hr, hguard, Bool.and_true, if_true, if_false]
  rfl

/-- A READ that passes its checks goes on to the transfer. -/
theorem exec_read_of_ready (start len : Byte) (s : State) (hr : Claims.InRange start.toNat len.toNat)
    (hready : s.gs = .ready) : exec (.read true start len) s = readTransfer start len s := by
  simp only [exec, execRead, (rangeOk_iff_inRange start len).mpr hr, hready, Bool.and_true, if_true]

/-- On `ok` a READ answers the bytes of the range. -/
theorem readTransfer_of_ok (start len : Byte) (s : State) (bytes : List Byte) (ha : s.transferAnswer = .ok)
    (hbytes : s.dev.readRange start.toNat len.toNat = some bytes) :
    readTransfer start len s = .next ((s.issueRead start.toNat len.toNat).answered .ok .plain 0 bytes) := by
  simp only [readTransfer, s.memRead_of_ok _ _ bytes ha hbytes]
  rfl

/-- On `fail` a READ answers the error. -/
theorem readTransfer_of_fail (start len : Byte) (s : State) (ha : s.transferAnswer = .fail) :
    readTransfer start len s
      = .next ((s.issueRead start.toNat len.toNat).answered .i2cReadError .plain 0 []) := by
  simp only [readTransfer, s.memRead_of_fail _ _ ha]
  rfl

/-- On `hang` a READ answers nothing. -/
theorem readTransfer_of_hang (start len : Byte) (s : State) (ha : s.transferAnswer = .hang) :
    readTransfer start len s = .next ((s.issueRead start.toNat len.toNat).setHung true) := by
  simp only [readTransfer, s.memRead_of_hang _ _ ha]

/-- A legal range of a canonical register file exists (R30, R35). -/
theorem Memory.covers_of_inRange (m : Memory) (h : m.wf) (start len : Nat) (hr : Claims.InRange start len) :
    m.covers start len = true := by
  obtain ⟨-, -, hend⟩ := hr
  exact m.covers_of_wf h start len hend

/-- The bytes of a range of a canonical register file, one by one (R33, R37). -/
theorem Memory.exists_readRange_of_wf (m : Memory) (h : m.wf) (start len : Nat) (hr : Claims.InRange start len) :
    ∃ bytes, m.readRange start len = some bytes ∧ bytes.length = len
      ∧ ∀ i, i < len → bytes[i]? = m.read (start + i) := by
  obtain ⟨bytes, hbytes⟩ := m.readRange_isSome_of_covers start len (m.covers_of_inRange h start len hr)
  exact ⟨bytes, hbytes, m.readRange_length _ _ _ hbytes, m.readRange_getElem _ _ _ hbytes⟩

/-- The number of a READ word (R57). -/
theorem encodeWord_read_toNat (present : Bool) (start len : Byte) :
    (encodeWord (.read present start len)).toNat
      = (if present then 0x98000000 else 0x90000000) + start.toNat * 0x100 + len.toNat := by
  rw [encodeWord, packWord_toNat]
  cases present <;> rfl

/-! ### WRITE (R104) -/

/-- A buffer that fits the register space passes the bounds check: its length fits the word. -/
theorem rangeOk_len_of_inRange (start : Byte) (bs : List Byte) (hr : Claims.InRange start.toNat bs.length) :
    rangeOk start (Source.bytes bs).len = true := by
  have hlen : bs.length ≤ 255 := by
    obtain ⟨-, hlen18, -⟩ := hr
    omega
  exact (rangeOk_len_iff_inRange start bs hlen).mpr hr

/-- Outside `Ready` a WRITE with good arguments is refused (R104 line 2). -/
theorem exec_write_of_not_ready (start : Byte) (bs : List Byte) (s : State)
    (hr : Claims.InRange start.toNat bs.length) (hguard : s.gs ≠ .ready) :
    exec (.write start (.bytes bs)) s = .next (s.answered .deviceSetupError .guard 0 []) := by
  simp only [exec, execWrite, rangeOk_len_of_inRange start bs hr, hguard, if_true, if_false]
  rfl

/-- A WRITE that passes its checks goes on to the transfer. -/
theorem exec_write_of_ready (start : Byte) (bs : List Byte) (s : State)
    (hr : Claims.InRange start.toNat bs.length) (hready : s.gs = .ready) :
    exec (.write start (.bytes bs)) s = writeTransfer start bs s := by
  simp only [exec, execWrite, rangeOk_len_of_inRange start bs hr, hready, if_true]

/-- On `ok` a WRITE stores its bytes. -/
theorem writeTransfer_of_ok (start : Byte) (bs : List Byte) (s : State) (ha : s.transferAnswer = .ok)
    (hcovers : s.dev.covers start.toNat bs.length = true) :
    writeTransfer start bs s
      = .next (((s.issueWrite start.toNat bs).setDev (s.dev.writeRange start.toNat bs)).answered .ok .plain 0 []) := by
  simp only [writeTransfer, s.memWrite_of_ok _ _ ha hcovers]
  rfl

/-- On `fail` a WRITE answers the error. -/
theorem writeTransfer_of_fail (start : Byte) (bs : List Byte) (s : State) (ha : s.transferAnswer = .fail) :
    writeTransfer start bs s = .next ((s.issueWrite start.toNat bs).answered .i2cWriteError .plain 0 []) := by
  simp only [writeTransfer, s.memWrite_of_fail _ _ ha]
  rfl

/-- On `hang` a WRITE answers nothing. -/
theorem writeTransfer_of_hang (start : Byte) (bs : List Byte) (s : State) (ha : s.transferAnswer = .hang) :
    writeTransfer start bs s = .next ((s.issueWrite start.toNat bs).setHung true) := by
  simp only [writeTransfer, s.memWrite_of_hang _ _ ha]

/-- A range written to a canonical register file holds the bytes written (R37). -/
theorem Memory.writeRange_read_inside_of_wf (m : Memory) (h : m.wf) (start : Nat) (bs : List Byte)
    (hr : Claims.InRange start bs.length) (i : Nat) (hi : i < bs.length) :
    (m.writeRange start bs).read (start + i) = bs[i]? := by
  obtain ⟨-, -, hend⟩ := hr
  exact m.writeRange_read_inside start bs i hi ((m.read_isSome_of_wf h _).mpr (by omega))

/-- The number of a WRITE word with its buffer (R57). -/
theorem encodeWord_write_bytes_toNat (start : Byte) (bs : List Byte) (hlen : bs.length ≤ 255) :
    (encodeWord (.write start (.bytes bs))).toNat = 0xA8000000 + start.toNat * 0x100 + bs.length := by
  have hnat : (Source.bytes bs).len.toNat = bs.length := by
    rw [Source.len, BitVec.toNat_ofNat]
    omega
  rw [encodeWord, packWord_toNat, hnat]
  simp [Source.present]

/-- The number of a WRITE word without a buffer (R57). -/
theorem encodeWord_write_null_toNat (start n : Byte) :
    (encodeWord (.write start (.null n))).toNat = 0xA0000000 + start.toNat * 0x100 + n.toNat := by
  rw [encodeWord, packWord_toNat]
  simp [Source.present, Source.len]

/-! ### SETALARM (R105) -/

section
variable (r : AlarmRecord) (s : State) (hmask : alarmMask r = 0)
include hmask

/-- A SETALARM of a legal record takes that record. -/
theorem acceptedAlarm_of_legal : acceptedAlarm (.bytes r.toBytes) = some r :=
  (acceptedAlarm_eq_some _ r).mpr ⟨rfl, hmask⟩

/-- Outside `Ready` a SETALARM of a legal record is refused (R105 line 3). -/
theorem exec_setalarm_of_not_ready (hguard : s.gs ≠ .ready) :
    exec (.setalarm (.bytes r.toBytes)) s = .next (s.answered .deviceSetupError .guard 0 []) := by
  simp only [exec, execSetalarm, acceptedAlarm_of_legal r hmask, hguard, if_false]
  rfl

/-- A SETALARM that passes its checks goes on to the control byte. -/
theorem exec_setalarm_of_ready (hready : s.gs = .ready) :
    exec (.setalarm (.bytes r.toBytes)) s = alarmControlWrite r s := by
  simp only [exec, execSetalarm, acceptedAlarm_of_legal r hmask, hready, if_true]

end

/-- On `hang` of the control byte's transfer SETALARM answers nothing. -/
theorem alarmControlWrite_of_hang (r : AlarmRecord) (s : State) (ha : s.transferAnswer = .hang) :
    alarmControlWrite r s = .next ((s.issueWrite 0x01 [0x80]).setHung true) := by
  simp only [alarmControlWrite, s.memWrite_of_hang _ _ ha]
  rfl

/-- With the control byte stored, SETALARM goes on to the five alarm fields (R105 line 8). -/
theorem alarmControlWrite_of_ok (r : AlarmRecord) (s : State) (h : s.dev.wf) (ha : s.transferAnswer = .ok) :
    alarmControlWrite r s = alarmFieldWrite r s.afterAlarmControl := by
  have hcovers : s.dev.covers Config.ctrlAddr [Config.alarmCtrlByte].length = true :=
    s.dev.covers_of_wf h _ _ (by decide)
  simp only [alarmControlWrite, s.memWrite_of_ok _ _ ha hcovers, State.afterAlarmControl]
  rfl

/-- On `hang` of the alarm fields' transfer SETALARM answers nothing. -/
theorem alarmFieldWrite_of_hang (r : AlarmRecord) (s : State) (ha : s.transferAnswer = .hang) :
    alarmFieldWrite r s = .next ((s.issueWrite 0x0B r.toBytes).setHung true) := by
  simp only [alarmFieldWrite, s.memWrite_of_hang _ _ ha]
  rfl

/-- The control byte is stored at `0x01` (R105 line 5). -/
theorem State.afterAlarmControl_read_ctrl (s : State) (h : s.dev.wf) :
    s.afterAlarmControl.dev.read 0x01 = some 0x80 := by
  rw [s.afterAlarmControl_dev]
  exact s.dev.writeRange_read_inside_of_wf h 0x01 [0x80] ⟨by decide, by decide, by decide⟩ 0 (by decide)

/-- The control byte's write changes no other register. -/
theorem State.afterAlarmControl_read_other (s : State) (a : Nat) (ha : a ≠ 0x01) :
    s.afterAlarmControl.dev.read a = s.dev.read a := by
  rw [s.afterAlarmControl_dev]
  exact s.dev.writeRange_read_outside 0x01 [0x80] a (Nat.lt_or_gt_of_ne ha)

/-! ### INIT (R102) -/

/-- An INIT of a legal record starts with the device, in every guard state (R102 line 3). -/
theorem exec_init_of_legal (r : TimeRecord) (s : State) (hmask : timeMask r true = 0) :
    exec (.init (some r)) s = initDevice r s :=
  if_pos hmask

/-- With the device handle cached, INIT goes on to the interrupt line (R102 line 5). -/
theorem initDevice_of_ok (r : TimeRecord) (s : State) (hdev : s.deviceReadyAnswer = .ok) :
    initDevice r s = initIrqLine r s.afterDeviceReady := by
  simp only [initDevice, hdev, State.afterDeviceReady]

/-- With the callback registered, INIT goes on to the time write (R102 line 7). -/
theorem initIrqLine_of_ok (r : TimeRecord) (s : State) (hirq : s.askDeviceReady.irqSetupAnswer = .ok) :
    initIrqLine r s.afterDeviceReady = initWrite r s.afterIrqLine := by
  simp only [initIrqLine, s.afterDeviceReady_answer, hirq, State.afterIrqLine]

/-- On `hang` of the time write INIT answers nothing. -/
theorem initWrite_of_hang (r : TimeRecord) (s : State) (ha : s.transferAnswer = .hang) :
    initWrite r s = .next ((s.issueWrite 0x04 r.toBytes).setHung true) := by
  simp only [initWrite, s.memWrite_of_hang _ _ ha]
  rfl

/-- On a canonical register file the time write of INIT always gives a next state. -/
theorem exists_initWrite (r : TimeRecord) (s : State) (h : s.dev.wf) : ∃ t, initWrite r s = .next t := by
  have hend : Config.timeBase + r.toBytes.length ≤ 18 := by simp [Config.timeBase, TimeRecord.toBytes]
  rcases s.memWrite_cases h Config.timeBase r.toBytes hend with ⟨-, hw⟩ | ⟨-, hw⟩ | ⟨-, hw⟩
  all_goals
    simp only [initWrite, hw]
    exact ⟨_, rfl⟩

/-- On a canonical register file an INIT of a legal record always gives a next state, in every guard state. -/
theorem exists_exec_init (r : TimeRecord) (s : State) (h : s.dev.wf) (hmask : timeMask r true = 0) :
    ∃ t, exec (.init (some r)) s = .next t := by
  rw [exec_init_of_legal r s hmask]
  cases hdev : s.deviceReadyAnswer with
  | fail => exact ⟨_, by rw [initDevice, hdev]; rfl⟩
  | ok =>
    rw [initDevice_of_ok r s hdev]
    cases hirq : s.askDeviceReady.irqSetupAnswer with
    | fail => exact ⟨_, by rw [initIrqLine, s.afterDeviceReady_answer, hirq]; rfl⟩
    | ok =>
      rw [initIrqLine_of_ok r s hirq]
      exact exists_initWrite r _ (by rwa [s.afterIrqLine_dev])

/-- An INIT of a legal record has asked for the device, however it ends (R102 line 3). -/
theorem deviceReady_mem_trace_of_init (r : TimeRecord) (s t : State) (hmask : timeMask r true = 0)
    (h : exec (.init (some r)) s = .next t) : Output.deviceReady s.deviceReadyAnswer ∈ t.trace := by
  obtain ⟨hbad, -⟩ | ⟨_, -, -, ⟨-, rfl⟩ | ⟨-, ⟨-, rfl⟩ | ⟨-, ⟨-, rfl⟩ | ⟨-, rfl⟩ | ⟨-, rfl⟩⟩⟩⟩ :=
    exec_init_cases (some r) s t h
  · exact absurd hmask (hbad r rfl)
  all_goals simp

/-- The rows of R109 for INIT: hung with the guard unchanged, or a response that tells the new guard state. -/
theorem init_guard_rows (record : Option TimeRecord) (s t : State) (hh : s.hung = false)
    (h : exec (.init record) s = .next t) :
    (t.hung = true ∧ t.gs = s.gs)
      ∨ (t.hung = false ∧ ∃ r : Response, t.trace.head? = some (.response r)
        ∧ ((r.err = .invalidParameter ∧ t.gs = s.gs) ∨ (r.err = .deviceSetupError ∧ t.gs = .failed)
          ∨ (r.err = .i2cWriteError ∧ t.gs = .failed) ∨ (r.err = .ok ∧ t.gs = .ready))) := by
  obtain ⟨-, rfl⟩ | ⟨_, -, -, ⟨-, rfl⟩ | ⟨-, ⟨-, rfl⟩ | ⟨-, ⟨-, rfl⟩ | ⟨-, rfl⟩ | ⟨-, rfl⟩⟩⟩⟩ :=
    exec_init_cases record s t h
  · exact .inr ⟨hh, _, rfl, .inl ⟨rfl, rfl⟩⟩
  · exact .inr ⟨hh, _, rfl, .inr (.inl ⟨rfl, rfl⟩)⟩
  · exact .inr ⟨by simp [hh], _, rfl, .inr (.inl ⟨rfl, rfl⟩)⟩
  · exact .inr ⟨by simp [hh], _, rfl, .inr (.inr (.inr ⟨rfl, rfl⟩))⟩
  · exact .inr ⟨by simp [hh], _, rfl, .inr (.inr (.inl ⟨rfl, rfl⟩))⟩
  · exact .inl ⟨rfl, s.afterIrqLine_gs⟩

/-! ### The guard is INIT's alone (R101, R109) -/

/-- No command but INIT changes the guard state. -/
theorem exec_gs_of_not_init (i : Instr) (s t : State) (hinit : ∀ record, i ≠ .init record)
    (h : exec i s = .next t) : t.gs = s.gs := by
  cases i with
  | init record => exact absurd rfl (hinit record)
  | read present start len =>
    obtain ⟨-, rfl⟩ | ⟨-, -, -, rfl⟩ | ⟨-, -, -, ⟨_, -, -, rfl⟩ | ⟨-, rfl⟩ | ⟨-, rfl⟩⟩ :=
      exec_read_cases present start len s t h <;> rfl
  | write start src =>
    obtain ⟨-, rfl⟩ | ⟨_, -, -, ⟨-, rfl⟩ | ⟨-, ⟨-, -, rfl⟩ | ⟨-, rfl⟩ | ⟨-, rfl⟩⟩⟩ :=
      exec_write_cases start src s t h <;> rfl
  | setalarm src =>
    obtain ⟨-, rfl⟩ | ⟨_, -, ⟨-, rfl⟩ | ⟨-, ⟨-, rfl⟩ | ⟨-, rfl⟩ | ⟨-, ⟨-, rfl⟩ | ⟨-, rfl⟩ | ⟨-, rfl⟩⟩⟩⟩ :=
      exec_setalarm_cases src s t h <;> simp
  | enc | dec | month | parse | vtime | valarm | vrange =>
    obtain ⟨hgs, -⟩ := pureCommandsFrame _ s t (by trivial) h
    exact hgs

/-- The deferred run leaves the guard state alone (R128). -/
theorem stepRun_gs (s t : State) (h : stepRun s = .next t) : t.gs = s.gs := by
  obtain ⟨_, -, -, rfl⟩ | ⟨-, rfl⟩ | ⟨-, rfl⟩ := stepRun_cases s t h <;> rfl

/-- An edge leaves the guard state alone, with a callback and without (R127). -/
theorem stepEdge_gs (s : State) : (stepEdge s).gs = s.gs := by
  unfold stepEdge
  split <;> rfl

/-! ### The hang (R108) -/

/-- An output that is no response is not counted as one. -/
theorem State.responses_of_trace_cons {s t : State} {o : Output} (ho : o.isResponse = false)
    (htrace : t.trace = o :: s.trace) : t.responses = s.responses := by
  rw [State.responses, htrace, List.countP_cons_of_neg (by simp [ho]), State.responses]

/-- A read that hangs gives no response. -/
theorem State.responses_hung_read (s : State) (start len : Nat) :
    ((s.issueRead start len).setHung true).responses = s.responses :=
  State.responses_of_trace_cons rfl (s.issueRead_trace start len)

/-- A write that hangs gives no response. -/
theorem State.responses_hung_write (s : State) (start : Nat) (bytes : List Byte) :
    ((s.issueWrite start bytes).setHung true).responses = s.responses :=
  State.responses_of_trace_cons rfl (s.issueWrite_trace start bytes)

/-- The transfer of the control byte is no response. -/
theorem State.responses_afterAlarmControl (s : State) : s.afterAlarmControl.responses = s.responses :=
  State.responses_of_trace_cons rfl s.afterAlarmControl_trace

/-- The two set-up questions are no responses. -/
theorem State.responses_afterIrqLine (s : State) : s.afterIrqLine.responses = s.responses :=
  (State.responses_of_trace_cons (s := s.askDeviceReady) rfl s.afterIrqLine_trace).trans
    (State.responses_of_trace_cons rfl s.askDeviceReady_trace)

/-- A hung block takes no deferred run: it is dropped, and nothing else happens (R108, R128). -/
theorem step_of_run_hung (s : State) (rest : List Event) (hh : s.hung = true) (ha : s.agenda = .run :: rest) :
    step s = .next (s.setAgenda rest) := by
  rw [step_of_agenda_cons s _ rest ha]
  exact if_neg (by simp [hh])

/-- An INIT whose time write hangs keeps its handle and its callback, and leaves the rest of the block as it was. -/
theorem init_hangs (r : TimeRecord) (s : State) (hmask : timeMask r true = 0) (hdev : s.deviceReadyAnswer = .ok)
    (hirq : s.askDeviceReady.irqSetupAnswer = .ok)
    (ha : s.askDeviceReady.askIrqSetup.transferAnswer = .hang) :
    ∃ t, exec (.init (some r)) s = .next t ∧ t.hung = true ∧ t.responses = s.responses ∧ t.dev = s.dev
      ∧ t.gs = s.gs ∧ t.hc = true ∧ t.irqEn = true := by
  rw [exec_init_of_legal r s hmask, initDevice_of_ok r s hdev, initIrqLine_of_ok r s hirq,
    initWrite_of_hang r _ (s.afterIrqLine_answer.trans ha)]
  exact ⟨_, rfl, rfl, (s.afterIrqLine.responses_hung_write _ _).trans s.responses_afterIrqLine, s.afterIrqLine_dev,
    s.afterIrqLine_gs, s.afterIrqLine_hc, s.afterIrqLine_irqEn⟩

/-- A SETALARM whose second transfer hangs has stored the control byte and nothing else. -/
theorem setalarm_fields_hang (r : AlarmRecord) (s : State) (h : s.dev.wf) (hmask : alarmMask r = 0)
    (hready : s.gs = .ready) (hok : s.transferAnswer = .ok)
    (ha : (s.issueWrite 0x01 [0x80]).transferAnswer = .hang) :
    ∃ t, exec (.setalarm (.bytes r.toBytes)) s = .next t ∧ t.hung = true ∧ t.responses = s.responses
      ∧ t.dev.read 0x01 = some 0x80 ∧ (∀ a, a ≠ 0x01 → t.dev.read a = s.dev.read a) ∧ t.gs = s.gs := by
  rw [exec_setalarm_of_ready r s hmask hready, alarmControlWrite_of_ok r s h hok,
    alarmFieldWrite_of_hang r _ (s.afterAlarmControl_answer.trans ha)]
  exact ⟨_, rfl, rfl, (s.afterAlarmControl.responses_hung_write _ _).trans s.responses_afterAlarmControl,
    s.afterAlarmControl_read_ctrl h, s.afterAlarmControl_read_other, s.afterAlarmControl_gs⟩

/-! ### The statements -/

/-- Settles O17: each hanging transfer ends in the state after its call with `HUNG` set, and a hung block drops commands
and runs. -/
theorem hungTransferNeverResponds : Obligations.HungTransferNeverResponds := by
  refine fun s h => ⟨fun start len hr hready ha => ?read, fun start bs hr hready ha => ?write, init_hangs (s := s),
    fun r hmask hready ha => ?setalarm, fun r => setalarm_fields_hang r s h, fun rest w din hh hagenda => ?dropped⟩
  case read =>
    rw [exec_read_of_ready start len s hr hready, readTransfer_of_hang start len s ha]
    exact ⟨_, rfl, rfl, s.responses_hung_read _ _, rfl, rfl⟩
  case write =>
    rw [exec_write_of_ready start bs s hr hready, writeTransfer_of_hang start bs s ha]
    exact ⟨_, rfl, rfl, s.responses_hung_write _ _, rfl, rfl⟩
  case setalarm =>
    rw [exec_setalarm_of_ready r s hmask hready, alarmControlWrite_of_hang r s ha]
    exact ⟨_, rfl, rfl, s.responses_hung_write _ _, rfl, rfl⟩
  case dropped =>
    obtain hcommand | hrun := hagenda
    · exact step_of_command_hung s w din rest hh hcommand
    · exact step_of_run_hung s rest hh hrun

/-- Settles O33: the argument checks come first in each of the four commands. -/
theorem badArgumentsReachNothing : Obligations.BadArgumentsReachNothing :=
  exec_of_badArguments

/-- Settles O34: the refusal of each guarded command, INIT's first question, and who leaves the guard alone. -/
theorem guardGatesRegisterAccess : Obligations.GuardGatesRegisterAccess := by
  refine ⟨fun s hguard => ⟨fun start len hr => exec_read_of_not_ready start len s hr hguard,
      fun start bs hr => exec_write_of_not_ready start bs s hr hguard,
      fun r hmask => exec_setalarm_of_not_ready r s hmask hguard⟩,
    rfl, fun r s h hmask => ?_, exec_gs_of_not_init⟩
  obtain ⟨t, ht⟩ := exists_exec_init r s h hmask
  exact ⟨t, ht, deviceReady_mem_trace_of_init r s t hmask ht⟩

/-- Settles O37: the two checks in their order, then the transfer by its answer. -/
theorem readFollowsItsRule : Obligations.ReadFollowsItsRule := by
  refine fun present start len s h => ⟨exec_of_badArguments (.read present start len) s rfl, ?guard, ?transfer,
    encodeWord_read_toNat present start len⟩
  case guard =>
    rintro rfl hr hguard
    exact exec_read_of_not_ready start len s hr hguard
  case transfer =>
    rintro rfl hr hready
    rw [exec_read_of_ready start len s hr hready]
    obtain ⟨bytes, hbytes, hlen, hget⟩ := s.dev.exists_readRange_of_wf h start.toNat len.toNat hr
    exact ⟨fun ha => ⟨bytes, hlen, hget, readTransfer_of_ok start len s bytes ha hbytes⟩,
      readTransfer_of_fail start len s, readTransfer_of_hang start len s⟩

/-- Settles O38: the two checks in their order, then the transfer by its answer. -/
theorem writeFollowsItsRule : Obligations.WriteFollowsItsRule := by
  refine fun start bs s h hlen => ⟨fun n => exec_of_badArguments (.write start (.null n)) s rfl trivial,
    exec_of_badArguments (.write start (.bytes bs)) s (decide_eq_true hlen), exec_write_of_not_ready start bs s,
    fun hr hready => ?transfer, encodeWord_write_bytes_toNat start bs hlen, encodeWord_write_null_toNat start⟩
  case transfer =>
    rw [exec_write_of_ready start bs s hr hready]
    have hcovers := s.dev.covers_of_inRange h start.toNat bs.length hr
    exact ⟨fun ha => ⟨s.dev.writeRange start.toNat bs, s.dev.writeRange_read_inside_of_wf h start.toNat bs hr,
        s.dev.writeRange_read_outside start.toNat bs, writeTransfer_of_ok start bs s ha hcovers⟩,
      writeTransfer_of_fail start bs s, writeTransfer_of_hang start bs s⟩

/-- Settles O44: the rows of INIT, and every other command and step keeps the guard state. -/
theorem guardStateMachine : Obligations.GuardStateMachine :=
  ⟨init_guard_rows, exec_gs_of_not_init,
    fun s t h => by rw [(s.raise_eq_next t .illegalCommand .plain).mp h]; exact s.emit_gs _,
    stepEdge_gs, stepRun_gs, fun s => s.setAlarmFired_gs false⟩

end Sys2Proof.Machine
end

section
/-! SUPPORT. Proofs of the statements on spec/60_exceptions.md: what an error leaves behind (R121, R123), `EDGE` (R127) and
`RUN` (R128). First what each command leaves of the block, and what the two interrupt steps do, one equation per outcome. -/

namespace Sys2Proof.Machine

/-! ### What a command leaves of the block, however it ends -/

/-- The guard state, the handle, the callback, the queue and the latch are in `t` as they are in `s`. -/
structure State.SameElements (s t : State) : Prop where
  gs : t.gs = s.gs
  hc : t.hc = s.hc
  irqEn : t.irqEn = s.irqEn
  workPending : t.workPending = s.workPending
  alarmFired : t.alarmFired = s.alarmFired

theorem State.sameElements_afterAlarmControl (s : State) : s.SameElements s.afterAlarmControl :=
  ⟨s.afterAlarmControl_gs, s.afterAlarmControl_hc, s.afterAlarmControl_irqEn, s.afterAlarmControl_workPending,
    s.afterAlarmControl_alarmFired⟩

theorem State.SameElements.trans {s t u : State} (hst : s.SameElements t) (htu : t.SameElements u) :
    s.SameElements u :=
  ⟨htu.gs.trans hst.gs, htu.hc.trans hst.hc, htu.irqEn.trans hst.irqEn, htu.workPending.trans hst.workPending,
    htu.alarmFired.trans hst.alarmFired⟩

/-- SETALARM leaves these elements alone, however its two transfers end (R105). -/
theorem sameElements_setalarm (src : Source) (s t : State) (h : exec (.setalarm src) s = .next t) :
    s.SameElements t := by
  obtain ⟨-, rfl⟩ | ⟨_, -, ⟨-, rfl⟩ | ⟨-, ⟨-, rfl⟩ | ⟨-, rfl⟩ | ⟨-, hfields⟩⟩⟩ := exec_setalarm_cases src s t h
  case inr.inr.inr.inr =>
    refine s.sameElements_afterAlarmControl.trans ?_
    obtain ⟨-, rfl⟩ | ⟨-, rfl⟩ | ⟨-, rfl⟩ := hfields <;> exact ⟨rfl, rfl, rfl, rfl, rfl⟩
  all_goals exact ⟨rfl, rfl, rfl, rfl, rfl⟩

/-- No command but INIT touches these elements, whether it ends with `OK`, with an error or hung. -/
theorem sameElements_of_not_init (i : Instr) (s t : State) (hinit : ∀ record, i ≠ .init record)
    (h : exec i s = .next t) : s.SameElements t := by
  cases i with
  | init record => exact absurd rfl (hinit record)
  | read present start len =>
    obtain ⟨-, rfl⟩ | ⟨-, -, -, rfl⟩ | ⟨-, -, -, ⟨_, -, -, rfl⟩ | ⟨-, rfl⟩ | ⟨-, rfl⟩⟩ :=
      exec_read_cases present start len s t h <;> exact ⟨rfl, rfl, rfl, rfl, rfl⟩
  | write start src =>
    obtain ⟨-, rfl⟩ | ⟨_, -, -, ⟨-, rfl⟩ | ⟨-, ⟨-, -, rfl⟩ | ⟨-, rfl⟩ | ⟨-, rfl⟩⟩⟩ :=
      exec_write_cases start src s t h <;> exact ⟨rfl, rfl, rfl, rfl, rfl⟩
  | setalarm src => exact sameElements_setalarm src s t h
  | enc | dec | month | parse | vtime | valarm | vrange =>
    obtain ⟨hgs, hhc, hirq, hpending, hfired, -⟩ := pureCommandsFrame _ s t (by trivial) h
    exact ⟨hgs, hhc, hirq, hpending, hfired⟩

/-- No command touches the latch or the queue: they belong to the interrupt's steps and to `CLEAR`. -/
theorem exec_keeps_latch_and_queue (i : Instr) (s t : State) (h : exec i s = .next t) :
    t.alarmFired = s.alarmFired ∧ t.workPending = s.workPending := by
  by_cases hinit : ∃ record, i = .init record
  · obtain ⟨record, rfl⟩ := hinit
    obtain ⟨-, rfl⟩ | ⟨_, -, -, ⟨-, rfl⟩ | ⟨-, ⟨-, rfl⟩ | ⟨-, ⟨-, rfl⟩ | ⟨-, rfl⟩ | ⟨-, rfl⟩⟩⟩⟩ :=
      exec_init_cases record s t h <;> simp
  · have hsame := sameElements_of_not_init i s t (not_exists.mp hinit) h
    exact ⟨hsame.alarmFired, hsame.workPending⟩

/-! ### What an error leaves, by command -/

/-- On a register file that has register `0x01` the control byte is stored there (R105 line 5). -/
theorem State.afterAlarmControl_read_ctrl_of_covers (s : State) (hcovers : s.dev.covers 0x01 1 = true) :
    s.afterAlarmControl.dev.read 0x01 = some 0x80 := by
  have hexists : (s.dev.read 0x01).isSome := by simpa [Memory.covers] using hcovers
  rw [s.afterAlarmControl_dev]
  exact s.dev.writeRange_read_inside 0x01 [0x80] 0 (by decide) hexists

section
variable {s t : State} {r : Response}

/-- The rows of R121 for INIT: each cause with what INIT had done before it; no cause changes a register. -/
theorem init_error_rows (record : Option TimeRecord) (h : exec (.init record) s = .next t)
    (hr : t.trace.head? = some (.response r)) (herr : r.err ≠ .ok) :
    t.dev = s.dev
      ∧ (r.err = .invalidParameter → t.gs = s.gs ∧ t.hc = s.hc ∧ t.irqEn = s.irqEn)
      ∧ (r.err = .deviceSetupError → r.detail = .i2cDevice → t.gs = .failed ∧ t.hc = s.hc ∧ t.irqEn = s.irqEn)
      ∧ (r.err = .deviceSetupError → r.detail = .irqLine → t.gs = .failed ∧ t.hc = true ∧ t.irqEn = s.irqEn)
      ∧ (r.err = .i2cWriteError → t.gs = .failed ∧ t.hc = true ∧ t.irqEn = true) := by
  obtain ⟨-, rfl⟩ | ⟨_, -, -, ⟨-, rfl⟩ | ⟨-, ⟨-, rfl⟩ | ⟨-, ⟨-, rfl⟩ | ⟨-, rfl⟩ | ⟨-, rfl⟩⟩⟩⟩ :=
    exec_init_cases record s t h <;> cases hr
  · simp
  · simp
  · simp
  · exact absurd rfl herr
  · simp

/-- SETALARM's errors: a register changes only when the first transfer was answered `ok` and the second failed, and then
only the control register, which holds `0x80` (R105, R121, decision D14). -/
theorem setalarm_error_dev (src : Source) (h : exec (.setalarm src) s = .next t)
    (hr : t.trace.head? = some (.response r)) (herr : r.err ≠ .ok) :
    (t.dev = s.dev ∧ (r.err = .i2cWriteError → s.transferAnswer ≠ .ok))
      ∨ (r.err = .i2cWriteError ∧ s.transferAnswer = .ok ∧ t.dev.read 0x01 = some 0x80
        ∧ ∀ a, a ≠ 0x01 → t.dev.read a = s.dev.read a) := by
  obtain ⟨-, rfl⟩ | ⟨record, haccepted, ⟨-, rfl⟩ | ⟨hready, ⟨hfail, rfl⟩ | ⟨-, rfl⟩ | ⟨hok, hfields⟩⟩⟩ :=
    exec_setalarm_cases src s t h
  · cases hr
    exact .inl ⟨rfl, nofun⟩
  · cases hr
    exact .inl ⟨rfl, nofun⟩
  · exact .inl ⟨rfl, fun _ hok => by simp [hfail] at hok⟩
  · cases hr
  have hcovers := exec_setalarm_control_covered src s t record h haccepted hready hok
  obtain ⟨-, rfl⟩ | ⟨-, rfl⟩ | ⟨-, rfl⟩ := hfields <;> cases hr
  · exact absurd rfl herr
  · exact .inr ⟨rfl, hok, s.afterAlarmControl_read_ctrl_of_covers hcovers, s.afterAlarmControl_read_other⟩

/-- Outside SETALARM no error changes a register (R121). -/
theorem error_dev_of_not_setalarm (i : Instr) (hset : ∀ src, i ≠ .setalarm src) (h : exec i s = .next t)
    (hr : t.trace.head? = some (.response r)) (herr : r.err ≠ .ok) : ∀ a, t.dev.read a = s.dev.read a := by
  cases i with
  | init record =>
    obtain ⟨hdev, -⟩ := init_error_rows record h hr herr
    exact fun a => congrArg (Memory.read · a) hdev
  | read present start len =>
    obtain ⟨-, rfl⟩ | ⟨-, -, -, rfl⟩ | ⟨-, -, -, ⟨_, -, -, rfl⟩ | ⟨-, rfl⟩ | ⟨-, rfl⟩⟩ :=
      exec_read_cases present start len s t h <;> exact fun _ => rfl
  | write start src =>
    obtain ⟨-, rfl⟩ | ⟨_, -, -, ⟨-, rfl⟩ | ⟨-, ⟨-, -, rfl⟩ | ⟨-, rfl⟩ | ⟨-, rfl⟩⟩⟩ :=
      exec_write_cases start src s t h
    case inr.inr.inl =>
      cases hr
      exact absurd rfl herr
    all_goals exact fun _ => rfl
  | setalarm src => exact absurd rfl (hset src)
  | enc | dec | month | parse | vtime | valarm | vrange =>
    obtain ⟨-, -, -, -, -, -, -, -, hdev, -⟩ := pureCommandsFrame _ s t (by trivial) h
    exact hdev

/-- No error changes a register other than the control register (R121). -/
theorem error_dev_of_ne_ctrl (i : Instr) (h : exec i s = .next t) (hr : t.trace.head? = some (.response r))
    (herr : r.err ≠ .ok) (a : Nat) (ha : a ≠ 0x01) : t.dev.read a = s.dev.read a := by
  by_cases hset : ∃ src, i = .setalarm src
  · obtain ⟨src, rfl⟩ := hset
    obtain ⟨hdev, -⟩ | ⟨-, -, -, hother⟩ := setalarm_error_dev src h hr herr
    · exact congrArg (Memory.read · a) hdev
    · exact hother a ha
  · exact error_dev_of_not_setalarm i (not_exists.mp hset) h hr herr a

end

/-! ### `EDGE` (R127) -/

/-- With a callback registered an edge queues the one item. -/
theorem stepEdge_of_irqEn (s : State) (hirq : s.irqEn = true) : stepEdge s = s.setWorkPending true :=
  if_pos hirq

/-- Without a callback an edge is lost (decision D32). -/
theorem stepEdge_of_not_irqEn (s : State) (hirq : s.irqEn = false) : stepEdge s = s :=
  if_neg (by simp [hirq])

/-- A block that is not hung takes the edge. -/
theorem step_of_edge (s : State) (rest : List Event) (hh : s.hung = false) (ha : s.agenda = .edge :: rest) :
    step s = .next (stepEdge (s.setAgenda rest)) := by
  rw [step_of_agenda_cons s _ rest ha]
  exact if_neg (by simp [hh])

/-- A hung block takes no edge: it is dropped, and nothing else happens. -/
theorem step_of_edge_hung (s : State) (rest : List Event) (hh : s.hung = true) (ha : s.agenda = .edge :: rest) :
    step s = .next (s.setAgenda rest) := by
  rw [step_of_agenda_cons s _ rest ha]
  exact if_pos hh

/-! ### `RUN` (R128) -/

/-- With no item queued a `RUN` is dropped, and nothing else happens. -/
theorem step_of_run_not_pending (s : State) (rest : List Event) (hp : s.workPending = false)
    (ha : s.agenda = .run :: rest) : step s = .next (s.setAgenda rest) := by
  rw [step_of_agenda_cons s _ rest ha]
  exact if_neg (by simp [hp])

/-- With an item queued a `RUN` on a block that is not hung is the deferred run. -/
theorem step_of_run_pending (s : State) (rest : List Event) (hh : s.hung = false) (hp : s.workPending = true)
    (ha : s.agenda = .run :: rest) : step s = stepRun (s.setAgenda rest) :=
  (step_of_agenda_cons s .run rest ha).trans (takeRun_of_pending _ hp hh)

/-- On `ok` the deferred run emits the snapshot it read and sets the latch. -/
theorem stepRun_of_ok (s : State) (bytes : List Byte) (ha : s.transferAnswer = .ok)
    (hbytes : s.dev.readRange 0 18 = some bytes) :
    stepRun s = .next ((((s.setWorkPending false).issueRead 0 18).emit (.snapshot bytes)).setAlarmFired true) := by
  have hread := (s.setWorkPending false).memRead_of_ok 0x00 Config.regSpace bytes ha hbytes
  simp only [stepRun, hread]
  rfl

/-- On `fail` the deferred run only sets the latch (decision D33). -/
theorem stepRun_of_fail (s : State) (ha : s.transferAnswer = .fail) :
    stepRun s = .next (((s.setWorkPending false).issueRead 0 18).setAlarmFired true) := by
  have hread := (s.setWorkPending false).memRead_of_fail 0x00 Config.regSpace ha
  simp only [stepRun, hread]
  rfl

/-- On `hang` the deferred run sets `HUNG` and not the latch. -/
theorem stepRun_of_hang (s : State) (ha : s.transferAnswer = .hang) :
    stepRun s = .next (((s.setWorkPending false).issueRead 0 18).setHung true) := by
  have hread := (s.setWorkPending false).memRead_of_hang 0x00 Config.regSpace ha
  simp only [stepRun, hread]
  rfl

/-! ### The statements -/

/-- Settles O47: no command but INIT touches the elements, INIT's errors follow its rows, and only SETALARM's second
transfer can fail after a register was stored. -/
theorem errorsLeaveOnlyListedEffects : Obligations.ErrorsLeaveOnlyListedEffects := by
  intro i s t r _ h _ hr herr
  obtain ⟨hfired, hpending⟩ := exec_keeps_latch_and_queue i s t h
  refine ⟨hfired, hpending, fun hinit => ?elements, ?init, fun hset => error_dev_of_not_setalarm i hset h hr herr,
    ?setalarm, error_dev_of_ne_ctrl i h hr herr⟩
  case elements =>
    have hsame := sameElements_of_not_init i s t hinit h
    exact ⟨hsame.gs, hsame.hc, hsame.irqEn⟩
  case init =>
    rintro record rfl
    obtain ⟨-, hrows⟩ := init_error_rows record h hr herr
    exact hrows
  case setalarm =>
    rintro src rfl
    obtain ⟨hdev, hfirst⟩ | ⟨hwrite, hok, hctrl, -⟩ := setalarm_error_dev src h hr herr
    · have hread : ∀ a, t.dev.read a = s.dev.read a := fun a => congrArg (Memory.read · a) hdev
      exact ⟨fun _ => hread, fun _ _ => hread, fun hwrite hok => absurd hok (hfirst hwrite)⟩
    · exact ⟨fun hne => absurd hwrite hne, fun _ hne => absurd hok hne, fun _ _ => hctrl⟩

/-- Settles O55: a `RUN` that is not enabled is dropped, and an enabled one ends by the transport's answer. -/
theorem runReadsBackAndSetsLatch : Obligations.RunReadsBackAndSetsLatch := by
  refine fun s rest hwf ha => ⟨?dropped, fun hh hp => ?taken⟩
  case dropped =>
    rintro (hh | hp)
    · exact step_of_run_hung s rest hh ha
    · exact step_of_run_not_pending s rest hp ha
  case taken =>
    rw [step_of_run_pending s rest hh hp ha]
    cases hanswer : s.transferAnswer with
    | ok =>
      obtain ⟨bytes, hbytes, hlen, hget⟩ := s.dev.exists_readRange_of_wf hwf 0 18 ⟨by decide, by decide, by decide⟩
      exact ⟨_, stepRun_of_ok (s.setAgenda rest) bytes hanswer hbytes, rfl, rfl, rfl, rfl, rfl, rfl,
        fun _ => ⟨rfl, hh, bytes, hlen, fun a hlt => by simpa using hget a hlt, congrArg (_ :: ·) (hanswer ▸ rfl)⟩,
        nofun, nofun⟩
    | fail =>
      exact ⟨_, stepRun_of_fail (s.setAgenda rest) hanswer, rfl, rfl, rfl, rfl, rfl, rfl, nofun,
        fun _ => ⟨rfl, hh, hanswer ▸ rfl⟩, nofun⟩
    | hang =>
      exact ⟨_, stepRun_of_hang (s.setAgenda rest) hanswer, rfl, rfl, rfl, rfl, rfl, rfl, nofun, nofun,
        fun _ => ⟨rfl, rfl, hanswer ▸ rfl⟩⟩

/-- Settles O54: the edge by whether it is taken and whether a callback is registered. -/
theorem edgeQueuesOneItem : Obligations.EdgeQueuesOneItem := by
  refine fun s rest ha => ⟨fun hh hirq => ?_, fun hh hirq => ?_, fun hh => step_of_edge_hung s rest hh ha⟩
  · rw [step_of_edge s rest hh ha, stepEdge_of_irqEn (s.setAgenda rest) hirq]
  · rw [step_of_edge s rest hh ha, stepEdge_of_not_irqEn (s.setAgenda rest) hirq]

end Sys2Proof.Machine
end

section
/-! SUPPORT. Proof of the statement on `RESET` (spec/70_reset_and_hazards.md R140, R141). First what `RESET` makes of a
state, said through the reset state itself, and the step that takes it. -/

namespace Sys2Proof.Machine

/-! ### What `RESET` makes of a state -/

/-- `RESET` gives the reset state, but for the device registers (R140) and the model's own fields (logs 16, 6, 3). -/
theorem stepReset_eq_reset_with (s : State) :
    stepReset s = { State.reset with dev := s.dev, env := s.env, agenda := s.agenda, trace := s.trace } := rfl

/-- A `RESET` step is taken in every state, hung or not, and uses up only its own event (R140). -/
theorem step_of_reset (s : State) (rest : List Event) (ha : s.agenda = .reset :: rest) :
    step s = .next { State.reset with dev := s.dev, env := s.env, agenda := rest, trace := s.trace } := by
  rw [step_of_agenda_cons s _ rest ha]
  exact congrArg Host.Outcome.next (stepReset_eq_reset_with (s.setAgenda rest))

/-! ### The statements -/

/-- Settles O11: the step's outcome is the reset state around the registers, the environment and the trace of `s`; the
block's elements are then those of O10. -/
theorem resetKeepsDevice : Obligations.ResetKeepsDevice := by
  intro s rest ha
  obtain ⟨hgs, -, hhc, hirq, hpending, hfired, hhung, -⟩ := resetValues
  exact ⟨_, step_of_reset s rest ha, hgs, hhc, hirq, hpending, hfired, hhung, fun _ => rfl, rfl, rfl, rfl⟩

end Sys2Proof.Machine
end

section
/-! SUPPORT. Proofs of the statements that decoding and encoding are inverse (spec/30_encoding.md R56 to R58, R63, R65)
and on the operand byte counts (R58, U15). First what decoding answers, then the command of each row: its word by its
fields, and its operand bytes. -/

namespace Sys2Proof

/-! ### What decoding answers -/

/-- `DLEN` of a word of a row (R58). -/
theorem dlen_of_opOf (w : CmdWord) (op : Op) (hop : opOf w = some op) :
    dlen w = dlenOf op (pField w) (nField w) := by
  simp only [dlen, hop]

/-- A pair is a command exactly when its length is right, its word is of a row, and the row's command is this one. -/
theorem decode_eq_instr_iff (w : CmdWord) (din : List Byte) (i : Instr) :
    decode w din = .instr i ↔ din.length = dlen w ∧ ∃ op, opOf w = some op ∧ assemble op w din = some i := by
  unfold decode
  split
  · next hlen =>
    cases hop : opOf w with
    | none => simp
    | some op => cases hasm : assemble op w din <;> simp [hlen, hasm]
  · next hlen => simp [hlen]

/-- A pair is refused exactly when its length is wrong (R58, U15). -/
theorem decode_eq_dinLength_iff (w : CmdWord) (din : List Byte) :
    decode w din = .dinLength ↔ din.length ≠ dlen w := by
  refine ⟨fun h hlen => ?_, fun hlen => if_neg hlen⟩
  cases hop : opOf w with
  | none =>
    have hnil : din = [] := List.length_eq_zero_iff.mp (hlen.trans (dlen_of_opOf_eq_none w hop))
    rw [hnil, decode_of_opOf_eq_none w hop] at h
    cases h
  | some op =>
    obtain ⟨i, hi⟩ := exists_decode_of_opOf w din (by simp [hop]) hlen
    cases hi.symm.trans h

/-! ### From a command to its words and back -/

/-- The word of every command belongs to the command's own row. -/
theorem opOf_encodeWord (i : Instr) : opOf (encodeWord i) = some i.op := by
  cases i with
  | enc v => exact Laws.RowMatch.enc v
  | dec b => exact Laws.RowMatch.dec b
  | month c0 c1 c2 => exact Laws.RowMatch.month c0 c1 c2
  | parse date time => exact Laws.RowMatch.parse date time
  | vtime init record => exact Laws.RowMatch.vtime init record
  | valarm record => exact Laws.RowMatch.valarm record
  | vrange start len => exact Laws.RowMatch.vrange start len
  | init record => exact Laws.RowMatch.init record
  | read present start len => exact Laws.RowMatch.read present start len
  | write start src => exact Laws.RowMatch.write start src
  | setalarm src => exact Laws.RowMatch.setalarm src

/-- Every well-formed command comes with as many operand bytes as its word asks for. -/
theorem length_encodeDin (i : Instr) (hwf : i.WellFormed = true) : (encodeDin i).length = dlen (encodeWord i) := by
  cases i with
  | enc v => exact Laws.OperandCount.enc v hwf
  | dec b => exact Laws.OperandCount.dec b hwf
  | month c0 c1 c2 => exact Laws.OperandCount.month c0 c1 c2 hwf
  | parse date time => exact Laws.OperandCount.parse date time hwf
  | vtime init record => exact Laws.OperandCount.vtime init record hwf
  | valarm record => exact Laws.OperandCount.valarm record hwf
  | vrange start len => exact Laws.OperandCount.vrange start len hwf
  | init record => exact Laws.OperandCount.init record hwf
  | read present start len => exact Laws.OperandCount.read present start len hwf
  | write start src => exact Laws.OperandCount.write start src hwf
  | setalarm src => exact Laws.OperandCount.setalarm src hwf

/-- A buffer argument is told by its `P`, its `N` and its bytes. -/
theorem sourceOf_encoded (src : Source) : sourceOf src.present src.len src.din = src := by
  cases src <;> rfl

/-- The seven bytes of a record are that record (R51). -/
theorem timeRecordOfBytes_toBytes (r : TimeRecord) : timeRecordOfBytes r.toBytes = some r := rfl

/-- A row's command, from the words of a well-formed command of that row, is that command. -/
theorem assemble_encode (i : Instr) (hwf : i.WellFormed = true) :
    assemble i.op (encodeWord i) (encodeDin i) = some i := by
  cases i with
  | enc | dec | vrange | read => simp [Instr.op, assemble, encodeWord]
  | month | valarm => rfl
  | parse date time =>
    obtain ⟨hdate, -⟩ : date.length ≤ 255 ∧ time.length = 8 := by simpa [Instr.WellFormed] using hwf
    have hnat : (nField (encodeWord (.parse date time))).toNat = date.length := by
      rw [encodeWord, nField_packWord, BitVec.toNat_ofNat]
      omega
    simp only [Instr.op, assemble, encodeDin, hnat, List.take_left', List.drop_left']
  | vtime init record => cases init <;> simp [Instr.op, assemble, encodeWord, encodeDin, timeRecordOfBytes_toBytes]
  | init record =>
    cases record <;> simp [Instr.op, assemble, encodeWord, encodeDin, timeRecordOfBytes_toBytes]
  | write start src => simp [Instr.op, assemble, encodeWord, encodeDin, sourceOf_encoded]
  | setalarm src => simp [Instr.op, assemble, encodeWord, encodeDin, sourceOf_encoded]

/-! ### From a word and its operand bytes to their command and back -/

/-- The `OP` code of an operation (R57). -/
def Op.code : Op → BitVec 4
  | .enc => 1
  | .dec => 2
  | .month => 3
  | .parse => 4
  | .vtime => 5
  | .valarm => 6
  | .vrange => 7
  | .init => 8
  | .read => 9
  | .write => 10
  | .setalarm => 11

/-- These are the codes of the opcode map. -/
theorem code_op_of_mem_opcodeRows : ∀ r ∈ opcodeRows, r.op.code = r.code := by
  decide

/-- A word of a row has the row's `OP`. -/
theorem opField_of_opOf (w : CmdWord) (op : Op) (hop : opOf w = some op) : opField w = op.code := by
  obtain ⟨r, hr, rfl, hmatch⟩ := exists_row_of_opOf w op hop
  rw [opField_of_match w r hr hmatch, code_op_of_mem_opcodeRows r hr]

/-- A word whose reserved bits are 0 is packed from its own fields. -/
theorem packWord_eq {w : CmdWord} {op : BitVec 4} {p : Bool} {a n : Byte} (hop : opField w = op)
    (hz : zField w = 0) (hp : pField w = p) (ha : aField w = a) (hn : nField w = n) : packWord op p a n = w := by
  subst hop hp ha hn
  exact packWord_fields w hz

/-- VTIME's mode bit is the whole of its `A` field, whose other bits are 0 (R57, R65). -/
theorem aField_of_iField (w : CmdWord) (ha : aField w &&& 0xFE = 0) : aField w = if iField w then 1 else 0 := by
  have hbit : iField w = (aField w).getLsbD 0 := by simp [iField, aField]
  rw [hbit]
  generalize aField w = a at ha
  revert a
  decide

/-- Bytes that are a TimeRecord are that record's bytes (R51). -/
theorem toBytes_of_timeRecordOfBytes {din : List Byte} {r : TimeRecord} (h : timeRecordOfBytes din = some r) :
    r.toBytes = din := by
  unfold timeRecordOfBytes at h
  split at h
  · cases h
    rfl
  · cases h

/-- Bytes that are an AlarmRecord are that record's bytes (R52). -/
theorem toBytes_of_alarmRecordOfBytes {din : List Byte} {r : AlarmRecord} (h : alarmRecordOfBytes din = some r) :
    r.toBytes = din := by
  unfold alarmRecordOfBytes at h
  split at h
  · cases h
    rfl
  · cases h

/-- A buffer argument made of as many bytes as `P` and `N` ask for has these `P`, `N` and bytes, and fits a word. -/
theorem sourceOf_fields (p : Bool) (n : Byte) (din : List Byte) (hlen : din.length = if p then n.toNat else 0) :
    (sourceOf p n din).present = p ∧ (sourceOf p n din).len = n ∧ (sourceOf p n din).din = din
      ∧ (sourceOf p n din).WellFormed = true := by
  cases p with
  | false => exact ⟨rfl, rfl, (List.length_eq_zero_iff.mp hlen).symm, rfl⟩
  | true =>
    have hn : din.length = n.toNat := hlen
    have hn256 : n.toNat < 256 := n.isLt
    exact ⟨rfl, by simp [sourceOf, Source.len, hn], rfl, by simp [sourceOf, Source.WellFormed]; omega⟩

section
variable {op : Op} {w : CmdWord} {din : List Byte} {i : Instr}

/-- The command made of a word's operand bytes has exactly these bytes, and is one that a word can carry (R58). -/
theorem encodeDin_of_assemble (hlen : din.length = dlenOf op (pField w) (nField w))
    (hasm : assemble op w din = some i) : encodeDin i = din ∧ i.WellFormed = true := by
  cases op with
  | enc | dec | vrange | read =>
    cases hasm
    exact ⟨(List.length_eq_zero_iff.mp hlen).symm, rfl⟩
  | month =>
    obtain ⟨c0, c1, c2, rfl⟩ := List.length_eq_three.mp hlen
    cases hasm
    exact ⟨rfl, rfl⟩
  | parse =>
    cases hasm
    have hn : (nField w).toNat < 256 := (nField w).isLt
    have hparts : din.length = (nField w).toNat + 8 := hlen
    refine ⟨List.take_append_drop _ din, ?_⟩
    simp only [Instr.WellFormed, List.length_take, List.length_drop, Bool.and_eq_true, decide_eq_true_eq]
    omega
  | vtime =>
    obtain ⟨r, hr, rfl⟩ := Option.map_eq_some_iff.mp hasm
    exact ⟨toBytes_of_timeRecordOfBytes hr, rfl⟩
  | valarm =>
    obtain ⟨r, hr, rfl⟩ := Option.map_eq_some_iff.mp hasm
    exact ⟨toBytes_of_alarmRecordOfBytes hr, rfl⟩
  | init =>
    cases hp : pField w <;> simp only [assemble, dlenOf, hp, if_true, Bool.false_eq_true, if_false] at hasm hlen
    · cases hasm
      exact ⟨(List.length_eq_zero_iff.mp hlen).symm, rfl⟩
    · obtain ⟨r, hr, rfl⟩ := Option.map_eq_some_iff.mp hasm
      exact ⟨toBytes_of_timeRecordOfBytes hr, rfl⟩
  | write | setalarm =>
    cases hasm
    obtain ⟨-, -, hdin, hwf⟩ := sourceOf_fields _ _ din hlen
    exact ⟨hdin, hwf⟩

/-- The command made of a word's fields has exactly this word: the bits that the command does not hold are fixed by the
word's row (R57). -/
theorem encodeWord_of_assemble (hop : opOf w = some op) (hlen : din.length = dlenOf op (pField w) (nField w))
    (hasm : assemble op w din = some i) : encodeWord i = w := by
  have hcode := opField_of_opOf w op hop
  cases op with
  | enc =>
    rw [opOf_of_enc w hcode, Option.ite_none_right_eq_some] at hop
    obtain ⟨⟨hp, hz, hn⟩, -⟩ := hop
    cases hasm
    exact packWord_eq hcode hz hp rfl hn
  | dec =>
    rw [opOf_of_dec w hcode, Option.ite_none_right_eq_some] at hop
    obtain ⟨⟨hp, hz, hn⟩, -⟩ := hop
    cases hasm
    exact packWord_eq hcode hz hp rfl hn
  | month =>
    rw [opOf_of_month w hcode, Option.ite_none_right_eq_some] at hop
    obtain ⟨⟨hp, hz, ha, hn⟩, -⟩ := hop
    obtain ⟨c0, c1, c2, rfl⟩ := List.length_eq_three.mp hlen
    cases hasm
    exact packWord_eq hcode hz hp ha hn
  | parse =>
    rw [opOf_of_parse w hcode, Option.ite_none_right_eq_some] at hop
    obtain ⟨⟨hp, hz, ha⟩, -⟩ := hop
    cases hasm
    have hparts : din.length = (nField w).toNat + 8 := hlen
    refine packWord_eq hcode hz hp ha ?_
    rw [List.length_take, min_eq_left (by omega), BitVec.ofNat_toNat, BitVec.setWidth_eq]
  | vtime =>
    rw [opOf_of_vtime w hcode, Option.ite_none_right_eq_some] at hop
    obtain ⟨⟨hp, hz, ha, hn⟩, -⟩ := hop
    obtain ⟨r, -, rfl⟩ := Option.map_eq_some_iff.mp hasm
    exact packWord_eq hcode hz hp (aField_of_iField w ha) hn
  | valarm =>
    rw [opOf_of_valarm w hcode, Option.ite_none_right_eq_some] at hop
    obtain ⟨⟨hp, hz, ha, hn⟩, -⟩ := hop
    obtain ⟨r, -, rfl⟩ := Option.map_eq_some_iff.mp hasm
    exact packWord_eq hcode hz hp ha hn
  | vrange =>
    rw [opOf_of_vrange w hcode, Option.ite_none_right_eq_some] at hop
    obtain ⟨⟨hp, hz⟩, -⟩ := hop
    cases hasm
    exact packWord_eq hcode hz hp rfl rfl
  | init =>
    rw [opOf_of_init w hcode, Option.ite_none_right_eq_some] at hop
    obtain ⟨⟨hz, ha, hn⟩, -⟩ := hop
    cases hp : pField w <;> simp only [assemble, hp, if_true, Bool.false_eq_true, if_false] at hasm
    · cases hasm
      exact packWord_eq hcode hz hp ha hn
    · obtain ⟨r, -, rfl⟩ := Option.map_eq_some_iff.mp hasm
      exact packWord_eq hcode hz hp ha hn
  | read =>
    rw [opOf_of_read w hcode, Option.ite_none_right_eq_some] at hop
    obtain ⟨hz, -⟩ := hop
    cases hasm
    exact packWord_eq hcode hz rfl rfl rfl
  | write =>
    rw [opOf_of_write w hcode, Option.ite_none_right_eq_some] at hop
    obtain ⟨hz, -⟩ := hop
    cases hasm
    obtain ⟨hp, hn, -, -⟩ := sourceOf_fields _ _ din hlen
    exact packWord_eq hcode hz hp.symm rfl hn.symm
  | setalarm =>
    rw [opOf_of_setalarm w hcode, Option.ite_none_right_eq_some] at hop
    obtain ⟨⟨hz, ha⟩, -⟩ := hop
    cases hasm
    obtain ⟨hp, hn, -, -⟩ := sourceOf_fields _ _ din hlen
    exact packWord_eq hcode hz hp.symm ha hn.symm

end

/-! ### How many operand bytes come with a word -/

/-- The words of R58's table, one per row and value of `P`, with the lengths the table gives. -/
theorem dlen_packWord (v n a : Byte) :
    dlen (packWord 1 false v 0) = 0 ∧ dlen (packWord 2 false v 0) = 0
      ∧ dlen (packWord 3 true 0 3) = 3 ∧ dlen (packWord 4 true 0 n) = n.toNat + 8
      ∧ dlen (packWord 5 true 0 7) = 7 ∧ dlen (packWord 5 true 1 7) = 7 ∧ dlen (packWord 6 true 0 5) = 5
      ∧ dlen (packWord 7 false a n) = 0 ∧ dlen (packWord 8 true 0 7) = 7 ∧ dlen (packWord 8 false 0 7) = 0
      ∧ (∀ p, dlen (packWord 9 p a n) = 0) ∧ dlen (packWord 10 true a n) = n.toNat
      ∧ dlen (packWord 10 false a n) = 0 ∧ dlen (packWord 11 true 0 n) = n.toNat
      ∧ dlen (packWord 11 false 0 n) = 0 := by
  simp [dlen, dlenOf, opOf_of_enc, opOf_of_dec, opOf_of_month, opOf_of_parse, opOf_of_vtime, opOf_of_valarm,
    opOf_of_vrange, opOf_of_init, opOf_of_read, opOf_of_write, opOf_of_setalarm]

end Sys2Proof

namespace Sys2Proof.Machine

/-- A step on a pair of the wrong length is refused (U15, assumption log 8). -/
theorem step_of_wrong_length (s : State) (w : CmdWord) (din : List Byte) (rest : List Event) (hh : s.hung = false)
    (ha : s.agenda = .command w din :: rest) (hlen : din.length ≠ dlen w) : step s = .refused .dinLength := by
  rw [step_of_agenda_cons s _ rest ha]
  simp only [takeEvent, acceptCommand, State.setAgenda_hung, hh, (decode_eq_dinLength_iff w din).mpr hlen]
  rfl

/-! ### The statements -/

/-- Settles O1: the word is of the command's row, its length is right, and the row's command is the one encoded. -/
theorem decodeOfEncodeGivesCommand : Obligations.DecodeOfEncodeGivesCommand :=
  fun i hwf => (decode_eq_instr_iff _ _ i).mpr
    ⟨length_encodeDin i hwf, i.op, opOf_encodeWord i, assemble_encode i hwf⟩

/-- Settles O2: the fields a command does not hold are fixed by its row, and its operand bytes are all kept. -/
theorem decodedWordsEncodeBack : Obligations.DecodedWordsEncodeBack := by
  intro w din i h
  obtain ⟨hlen, op, hop, hasm⟩ := (decode_eq_instr_iff w din i).mp h
  have hlen' := hlen.trans (dlen_of_opOf w op hop)
  obtain ⟨hdin, hwf⟩ := encodeDin_of_assemble hlen' hasm
  exact ⟨Prod.ext (encodeWord_of_assemble hop hlen' hasm) hdin, hwf⟩

/-- A command that decoding answers is one that a word can carry. -/
theorem wellFormed_of_decode {w : CmdWord} {din : List Byte} {i : Instr} (h : decode w din = .instr i) :
    i.WellFormed = true := by
  obtain ⟨-, hwf⟩ := decodedWordsEncodeBack w din i h
  exact hwf

/-- Settles O5: the length alone decides a refusal, and the lengths are those of each row. -/
theorem operandByteCounts : Obligations.OperandByteCounts :=
  ⟨decode_eq_dinLength_iff, step_of_wrong_length, dlen_packWord⟩

/-- Settles O6: each of the words is the encoding of its command, so that O1 decodes it. -/
theorem knownWordsDecode : Obligations.KnownWordsDecode := by
  have hdecode (w : CmdWord) (din : List Byte) (i : Instr) (hwf : i.WellFormed = true) (henc : encode i = (w, din)) :
      decode w din = .instr i := by
    simpa [henc] using decodeOfEncodeGivesCommand i hwf
  refine ⟨?_, ?_, ?_, ?_, ?_, ?_, ?_, ?_, ?_, ?_, ?_, ?_, ?_⟩ <;> exact hdecode _ _ _ rfl (by decide)

end Sys2Proof.Machine
end

section
/-! SUPPORT. Proofs of the frames of the guarded commands (spec/43_register_access.md R102 to R105) and of the one
response that ends a command (30_encoding.md R59). First what every command keeps of a block, however it ends. -/

namespace Sys2Proof.Machine

/-! ### What every command keeps -/

/-- Every register that differs between two states is in the range of a successful burst write recorded between them
(20_memory.md R37). -/
def State.ChangesRecorded (s t : State) : Prop :=
  ∃ news, t.trace = news ++ s.trace ∧ ∀ a, t.dev.read a ≠ s.dev.read a →
    ∃ start bs, Output.burstWrite 0x51 start bs .ok ∈ news ∧ start ≤ a ∧ a < start + bs.length

/-- What holds between the states before and after every command: the agenda is left alone, the handle, the callback and
a hang stay, the device has the same registers, and a changed one was written. -/
structure State.CommandKeeps (s t : State) : Prop where
  agenda : t.agenda = s.agenda
  hung : s.hung = true → t.hung = true
  hc : s.hc = true → t.hc = true
  irqEn : s.irqEn = true → t.irqEn = true
  keys : t.dev.map Prod.fst = s.dev.map Prod.fst
  recorded : s.ChangesRecorded t

theorem State.ChangesRecorded.trans {s t u : State} (hst : s.ChangesRecorded t) (htu : t.ChangesRecorded u) :
    s.ChangesRecorded u := by
  obtain ⟨news, hnews, hwritten⟩ := hst
  obtain ⟨more, hmore, hwritten'⟩ := htu
  refine ⟨more ++ news, by rw [hmore, hnews, List.append_assoc], fun a hne => ?_⟩
  by_cases hlast : u.dev.read a = t.dev.read a
  · obtain ⟨start, bs, hmem, hrange⟩ := hwritten a (hlast ▸ hne)
    exact ⟨start, bs, List.mem_append_right more hmem, hrange⟩
  · obtain ⟨start, bs, hmem, hrange⟩ := hwritten' a hlast
    exact ⟨start, bs, List.mem_append_left news hmem, hrange⟩

theorem State.CommandKeeps.trans {s t u : State} (hst : s.CommandKeeps t) (htu : t.CommandKeeps u) :
    s.CommandKeeps u :=
  ⟨htu.agenda.trans hst.agenda, fun h => htu.hung (hst.hung h), fun h => htu.hc (hst.hc h),
    fun h => htu.irqEn (hst.irqEn h), htu.keys.trans hst.keys, hst.recorded.trans htu.recorded⟩

/-- Where the device is left alone only the other elements are to be looked at. -/
theorem State.CommandKeeps.of_dev_eq {s t : State} (hagenda : t.agenda = s.agenda)
    (hhung : s.hung = true → t.hung = true) (hhc : s.hc = true → t.hc = true)
    (hirq : s.irqEn = true → t.irqEn = true) (hdev : t.dev = s.dev) (htrace : ∃ news, t.trace = news ++ s.trace) :
    s.CommandKeeps t := by
  obtain ⟨news, hnews⟩ := htrace
  exact ⟨hagenda, hhung, hhc, hirq, by rw [hdev], news, hnews, fun a hne => absurd (by rw [hdev]) hne⟩

theorem State.commandKeeps_answered (s : State) (err : ErrCode) (detail : Detail) (val : Byte) (dout : List Byte) :
    s.CommandKeeps (s.answered err detail val dout) :=
  .of_dev_eq rfl id id id rfl ⟨[_], rfl⟩

theorem State.commandKeeps_setHung (s : State) : s.CommandKeeps (s.setHung true) :=
  .of_dev_eq rfl (fun _ => rfl) id id rfl ⟨[], rfl⟩

theorem State.commandKeeps_setGs (s : State) (g : GuardState) : s.CommandKeeps (s.setGs g) :=
  .of_dev_eq rfl id id id rfl ⟨[], rfl⟩

theorem State.commandKeeps_issueRead (s : State) (start len : Nat) : s.CommandKeeps (s.issueRead start len) :=
  .of_dev_eq rfl id id id rfl ⟨[_], rfl⟩

theorem State.commandKeeps_issueWrite (s : State) (start : Nat) (bs : List Byte) :
    s.CommandKeeps (s.issueWrite start bs) :=
  .of_dev_eq rfl id id id rfl ⟨[_], rfl⟩

theorem State.commandKeeps_askDeviceReady (s : State) : s.CommandKeeps s.askDeviceReady :=
  .of_dev_eq rfl id id id rfl ⟨[_], rfl⟩

theorem State.commandKeeps_askIrqSetup (s : State) : s.CommandKeeps s.askIrqSetup :=
  .of_dev_eq rfl id id id rfl ⟨[_], rfl⟩

theorem State.commandKeeps_afterDeviceReady (s : State) : s.CommandKeeps s.afterDeviceReady :=
  .of_dev_eq s.afterDeviceReady_agenda (by simp) (by simp) (by simp) s.afterDeviceReady_dev
    ⟨[_], s.afterDeviceReady_trace⟩

theorem State.commandKeeps_afterIrqLine (s : State) : s.CommandKeeps s.afterIrqLine :=
  .of_dev_eq s.afterIrqLine_agenda (by simp) (by simp) (by simp) s.afterIrqLine_dev ⟨[_, _], s.afterIrqLine_trace⟩

/-- A burst write answered `ok` is recorded with the range that it stores. -/
theorem State.commandKeeps_stored (s : State) (start : Nat) (bs : List Byte) (m : Memory)
    (ha : s.transferAnswer = .ok) (hm : m = s.dev.writeRange start bs) :
    s.CommandKeeps ((s.issueWrite start bs).setDev m) := by
  subst hm
  refine ⟨rfl, id, id, id, s.dev.writeRange_keys start bs, [.burstWrite 0x51 start bs .ok], ?_, fun a hne => ?_⟩
  · simp [ha, Config.chipAddr]
  · by_contra hout
    refine hne (s.dev.writeRange_read_outside start bs a ?_)
    by_contra hin
    exact hout ⟨start, bs, List.mem_singleton_self _, by omega⟩

theorem State.commandKeeps_afterAlarmControl (s : State) (ha : s.transferAnswer = .ok) :
    s.CommandKeeps s.afterAlarmControl := by
  rw [State.afterAlarmControl]
  exact s.commandKeeps_stored _ _ _ ha rfl

/-- A pure command gives its response and nothing else. -/
theorem exec_pure_answer (i : Instr) (s t : State) (hpure : i.IsPure) (h : exec i s = .next t) :
    ∃ r, t = s.emit (.response r) := by
  obtain ⟨r, hr⟩ := exec_of_isPure i hpure
  exact ⟨r, (Host.Outcome.next.inj ((hr s).symm.trans h)).symm⟩

/-- Every command keeps these, however it ends. -/
theorem commandKeeps_exec (i : Instr) (s t : State) (h : exec i s = .next t) : s.CommandKeeps t := by
  cases i with
  | init record =>
    obtain ⟨-, rfl⟩ | ⟨r, -, -, ⟨-, rfl⟩ | ⟨-, ⟨-, rfl⟩ | ⟨-, hwrite⟩⟩⟩ := exec_init_cases record s t h
    · exact s.commandKeeps_answered ..
    · exact (s.commandKeeps_askDeviceReady.trans (State.commandKeeps_setGs ..)).trans (State.commandKeeps_answered ..)
    · exact ((s.commandKeeps_afterDeviceReady.trans (State.commandKeeps_askIrqSetup _)).trans
        (State.commandKeeps_setGs ..)).trans (State.commandKeeps_answered ..)
    refine s.commandKeeps_afterIrqLine.trans ?_
    obtain ⟨hok, rfl⟩ | ⟨-, rfl⟩ | ⟨-, rfl⟩ := hwrite
    · exact ((State.commandKeeps_stored _ _ _ _ hok (by rw [s.afterIrqLine_dev])).trans
        (State.commandKeeps_setGs ..)).trans (State.commandKeeps_answered ..)
    · exact ((State.commandKeeps_issueWrite ..).trans (State.commandKeeps_setGs ..)).trans
        (State.commandKeeps_answered ..)
    · exact (State.commandKeeps_issueWrite ..).trans (State.commandKeeps_setHung _)
  | read present start len =>
    obtain ⟨-, rfl⟩ | ⟨-, -, -, rfl⟩ | ⟨-, -, -, ⟨_, -, -, rfl⟩ | ⟨-, rfl⟩ | ⟨-, rfl⟩⟩ :=
      exec_read_cases present start len s t h
    · exact s.commandKeeps_answered ..
    · exact s.commandKeeps_answered ..
    · exact (s.commandKeeps_issueRead ..).trans (State.commandKeeps_answered ..)
    · exact (s.commandKeeps_issueRead ..).trans (State.commandKeeps_answered ..)
    · exact (s.commandKeeps_issueRead ..).trans (State.commandKeeps_setHung _)
  | write start src =>
    obtain ⟨-, rfl⟩ | ⟨bs, -, -, ⟨-, rfl⟩ | ⟨-, ⟨hok, -, rfl⟩ | ⟨-, rfl⟩ | ⟨-, rfl⟩⟩⟩ :=
      exec_write_cases start src s t h
    · exact s.commandKeeps_answered ..
    · exact s.commandKeeps_answered ..
    · exact (s.commandKeeps_stored _ _ _ hok rfl).trans (State.commandKeeps_answered ..)
    · exact (s.commandKeeps_issueWrite ..).trans (State.commandKeeps_answered ..)
    · exact (s.commandKeeps_issueWrite ..).trans (State.commandKeeps_setHung _)
  | setalarm src =>
    obtain ⟨-, rfl⟩ | ⟨r, -, ⟨-, rfl⟩ | ⟨-, ⟨-, rfl⟩ | ⟨-, rfl⟩ | ⟨hok, hfields⟩⟩⟩ := exec_setalarm_cases src s t h
    · exact s.commandKeeps_answered ..
    · exact s.commandKeeps_answered ..
    · exact (s.commandKeeps_issueWrite ..).trans (State.commandKeeps_answered ..)
    · exact (s.commandKeeps_issueWrite ..).trans (State.commandKeeps_setHung _)
    refine (s.commandKeeps_afterAlarmControl hok).trans ?_
    obtain ⟨hok', rfl⟩ | ⟨-, rfl⟩ | ⟨-, rfl⟩ := hfields
    · exact (State.commandKeeps_stored _ _ _ _ hok' rfl).trans (State.commandKeeps_answered ..)
    · exact (State.commandKeeps_issueWrite ..).trans (State.commandKeeps_answered ..)
    · exact (State.commandKeeps_issueWrite ..).trans (State.commandKeeps_setHung _)
  | enc | dec | month | parse | vtime | valarm | vrange =>
    obtain ⟨r, rfl⟩ := exec_pure_answer _ s t (by trivial) h
    exact .of_dev_eq rfl id id id rfl ⟨[_], rfl⟩

/-! ### Which registers a guarded command leaves -/

/-- READ leaves the device alone. -/
theorem exec_read_dev (present : Bool) (start len : Byte) (s t : State)
    (h : exec (.read present start len) s = .next t) : t.dev = s.dev := by
  obtain ⟨-, rfl⟩ | ⟨-, -, -, rfl⟩ | ⟨-, -, -, ⟨_, -, -, rfl⟩ | ⟨-, rfl⟩ | ⟨-, rfl⟩⟩ :=
    exec_read_cases present start len s t h <;> rfl

/-- WRITE leaves the registers outside the range of its buffer alone. -/
theorem exec_write_read_outside (start : Byte) (bs : List Byte) (s t : State)
    (h : exec (.write start (.bytes bs)) s = .next t) (a : Nat)
    (ha : a < start.toNat ∨ start.toNat + bs.length ≤ a) : t.dev.read a = s.dev.read a := by
  obtain ⟨-, rfl⟩ | ⟨bs', hbs, -, ⟨-, rfl⟩ | ⟨-, ⟨-, -, rfl⟩ | ⟨-, rfl⟩ | ⟨-, rfl⟩⟩⟩ :=
    exec_write_cases start (.bytes bs) s t h
  case inr.inr.inl =>
    cases hbs
    exact s.dev.writeRange_read_outside start.toNat bs a ha
  all_goals rfl

/-- SETALARM leaves the registers other than the control register and the five alarm registers alone. -/
theorem exec_setalarm_read_other (src : Source) (s t : State) (h : exec (.setalarm src) s = .next t) (a : Nat)
    (hctrl : a ≠ 0x01) (hfields : a < 0x0B ∨ 0x0F < a) : t.dev.read a = s.dev.read a := by
  obtain ⟨-, rfl⟩ | ⟨r, -, ⟨-, rfl⟩ | ⟨-, ⟨-, rfl⟩ | ⟨-, rfl⟩ | ⟨-, hcase⟩⟩⟩ := exec_setalarm_cases src s t h
  case inr.inr.inr.inr =>
    refine Eq.trans ?_ (s.afterAlarmControl_read_other a hctrl)
    obtain ⟨-, rfl⟩ | ⟨-, rfl⟩ | ⟨-, rfl⟩ := hcase
    case inl => exact s.afterAlarmControl.dev.writeRange_read_outside 0x0B r.toBytes a hfields
    all_goals rfl
  all_goals rfl

/-- INIT leaves the registers other than the seven time registers alone. -/
theorem exec_init_read_other (record : Option TimeRecord) (s t : State) (h : exec (.init record) s = .next t)
    (a : Nat) (htime : a < 0x04 ∨ 0x0A < a) : t.dev.read a = s.dev.read a := by
  obtain ⟨-, rfl⟩ | ⟨r, -, -, ⟨-, rfl⟩ | ⟨-, ⟨-, rfl⟩ | ⟨-, ⟨-, rfl⟩ | ⟨-, rfl⟩ | ⟨-, rfl⟩⟩⟩⟩ :=
    exec_init_cases record s t h
  case inr.inr.inr.inl => exact s.dev.writeRange_read_outside 0x04 r.toBytes a htime
  all_goals simp

/-! ### One response per command (R59) -/

/-- Between the states one response was given, which left the block last, or the block hangs and none was. -/
def State.OneResponse (s t : State) : Prop :=
  (t.hung = false ∧ t.responses = s.responses + 1 ∧ ∃ r, t.trace.head? = some (.response r))
    ∨ (t.hung = true ∧ t.responses = s.responses)

section
variable {s u : State}

/-- A response after a stretch without one. -/
theorem State.oneResponse_answered {err : ErrCode} {detail : Detail} {val : Byte} {dout : List Byte}
    (hh : u.hung = false) (hquiet : u.responses = s.responses) :
    s.OneResponse (u.answered err detail val dout) := by
  refine .inl ⟨hh, ?_, _, rfl⟩
  rw [← hquiet]
  exact List.countP_cons_of_pos rfl

/-- A hang after a stretch without a response. -/
theorem State.oneResponse_setHung (hquiet : u.responses = s.responses) : s.OneResponse (u.setHung true) :=
  .inr ⟨rfl, hquiet⟩

end

/-- The device set-up question is no response. -/
theorem State.responses_afterDeviceReady (s : State) : s.afterDeviceReady.responses = s.responses :=
  State.responses_of_trace_cons rfl s.afterDeviceReady_trace

/-- Every command ends with one response, given last, or hung without one. -/
theorem oneResponse_exec (i : Instr) (s t : State) (hh : s.hung = false) (h : exec i s = .next t) :
    s.OneResponse t := by
  cases i with
  | init record =>
    have hwritten (bs : List Byte) := (s.afterIrqLine.responses_hung_write 0x04 bs).trans s.responses_afterIrqLine
    have hirqAsked : s.afterDeviceReady.askIrqSetup.responses = s.responses :=
      (State.responses_of_trace_cons rfl s.afterDeviceReady.askIrqSetup_trace).trans s.responses_afterDeviceReady
    obtain ⟨-, rfl⟩ | ⟨r, -, -, ⟨-, rfl⟩ | ⟨-, ⟨-, rfl⟩ | ⟨-, ⟨-, rfl⟩ | ⟨-, rfl⟩ | ⟨-, rfl⟩⟩⟩⟩ :=
      exec_init_cases record s t h
    · exact State.oneResponse_answered hh rfl
    · exact State.oneResponse_answered hh (State.responses_of_trace_cons rfl s.askDeviceReady_trace)
    · exact State.oneResponse_answered (by simp [hh]) hirqAsked
    · exact State.oneResponse_answered (by simp [hh]) (hwritten r.toBytes)
    · exact State.oneResponse_answered (by simp [hh]) (hwritten r.toBytes)
    · exact State.oneResponse_setHung (hwritten r.toBytes)
  | read present start len =>
    have hasked := s.responses_hung_read start.toNat len.toNat
    obtain ⟨-, rfl⟩ | ⟨-, -, -, rfl⟩ | ⟨-, -, -, ⟨_, -, -, rfl⟩ | ⟨-, rfl⟩ | ⟨-, rfl⟩⟩ :=
      exec_read_cases present start len s t h
    · exact State.oneResponse_answered hh rfl
    · exact State.oneResponse_answered hh rfl
    · exact State.oneResponse_answered hh hasked
    · exact State.oneResponse_answered hh hasked
    · exact State.oneResponse_setHung hasked
  | write start src =>
    have hwritten := s.responses_hung_write start.toNat
    obtain ⟨-, rfl⟩ | ⟨bs, -, -, ⟨-, rfl⟩ | ⟨-, ⟨-, -, rfl⟩ | ⟨-, rfl⟩ | ⟨-, rfl⟩⟩⟩ :=
      exec_write_cases start src s t h
    · exact State.oneResponse_answered hh rfl
    · exact State.oneResponse_answered hh rfl
    · exact State.oneResponse_answered hh (hwritten bs)
    · exact State.oneResponse_answered hh (hwritten bs)
    · exact State.oneResponse_setHung (hwritten bs)
  | setalarm src =>
    have hctrl := s.responses_hung_write 0x01 [0x80]
    have hwritten (bs : List Byte) :=
      (s.afterAlarmControl.responses_hung_write 0x0B bs).trans s.responses_afterAlarmControl
    obtain ⟨-, rfl⟩ | ⟨r, -, ⟨-, rfl⟩ | ⟨-, ⟨-, rfl⟩ | ⟨-, rfl⟩ | ⟨-, ⟨-, rfl⟩ | ⟨-, rfl⟩ | ⟨-, rfl⟩⟩⟩⟩ :=
      exec_setalarm_cases src s t h
    · exact State.oneResponse_answered hh rfl
    · exact State.oneResponse_answered hh rfl
    · exact State.oneResponse_answered hh hctrl
    · exact State.oneResponse_setHung hctrl
    · exact State.oneResponse_answered (by simp [hh]) (hwritten r.toBytes)
    · exact State.oneResponse_answered (by simp [hh]) (hwritten r.toBytes)
    · exact State.oneResponse_setHung (hwritten r.toBytes)
  | enc | dec | month | parse | vtime | valarm | vrange =>
    obtain ⟨r, rfl⟩ := exec_pure_answer _ s t (by trivial) h
    exact State.oneResponse_answered hh rfl

/-! ### The statements -/

/-- Settles O45, command by command: nothing but the last output is a response. -/
theorem oneResponsePerCommand : Obligations.OneResponsePerCommand :=
  oneResponse_exec

/-- Settles O49: the elements by what every command keeps, the registers by the ranges each command writes. -/
theorem registerAccessFrame : Obligations.RegisterAccessFrame := by
  refine fun s t => ⟨fun i hi h => ?elements, fun p start len h a => ?read, fun start n h a => ?null,
    fun start bs h => exec_write_read_outside start bs s t h, fun src h a hctrl hfields => ?setalarm⟩
  case elements =>
    have hinit : ∀ record, i ≠ .init record := by
      obtain ⟨p, a, n, rfl⟩ | ⟨a, src, rfl⟩ | ⟨src, rfl⟩ := hi <;> nofun
    have hsame := sameElements_of_not_init i s t hinit h
    have hkeeps := commandKeeps_exec i s t h
    exact ⟨hsame.gs, hsame.hc, hsame.irqEn, hsame.workPending, hsame.alarmFired, hkeeps.agenda, hkeeps.hung⟩
  case read => rw [exec_read_dev p start len s t h]
  case null =>
    cases h
    rfl
  case setalarm =>
    refine exec_setalarm_read_other src s t h a hctrl ?_
    by_contra hin
    exact hfields (a - 0x0B) (by omega) (by simp only [alarmReg, Config.alarmBase]; omega)

/-- Settles O50: the elements by what every command keeps, the registers by the range INIT writes, and a rejected record
by the argument checks. -/
theorem initFrame : Obligations.InitFrame := by
  intro record s t h
  obtain ⟨hfired, hpending⟩ := exec_keeps_latch_and_queue (.init record) s t h
  have hkeeps := commandKeeps_exec (.init record) s t h
  refine ⟨hfired, hpending, hkeeps.agenda, hkeeps.hc, hkeeps.irqEn, hkeeps.hung, fun a htime => ?registers,
    fun hbad => ?rejected⟩
  case registers =>
    refine exec_init_read_other record s t h a ?_
    by_contra hin
    exact htime (a - 0x04) (by omega) (by simp only [timeReg, Config.timeBase]; omega)
  case rejected =>
    cases (exec_of_badArguments (.init record) s rfl hbad).symm.trans h
    exact ⟨rfl, rfl, rfl, rfl, rfl, fun _ => rfl⟩

end Sys2Proof.Machine
end

section
/-! SUPPORT. Proofs of the statements on the transport (spec/20_memory.md R36, R37), on how INIT and SETALARM succeed
and fail (43_register_access.md R102, R105, 20_memory.md R44), and on reading back what was written (95_test_vectors.md
E7, E9, E10). First the outcomes of INIT and SETALARM that have no equation yet, one each. -/

namespace Sys2Proof.Machine

/-! ### The outcomes of SETALARM (R105) -/

/-- On `fail` of the control byte's transfer SETALARM answers the error, and issues nothing else. -/
theorem alarmControlWrite_of_fail (r : AlarmRecord) (s : State) (ha : s.transferAnswer = .fail) :
    alarmControlWrite r s = .next ((s.issueWrite 0x01 [0x80]).answered .i2cWriteError .plain 0 []) := by
  simp only [alarmControlWrite, s.memWrite_of_fail _ _ ha]
  rfl

/-- On `ok` of the second transfer the five alarm bytes are stored. -/
theorem alarmFieldWrite_of_ok (r : AlarmRecord) (s : State) (h : s.dev.wf) (ha : s.transferAnswer = .ok) :
    alarmFieldWrite r s = .next (((s.issueWrite 0x0B r.toBytes).setDev
      (s.dev.writeRange 0x0B r.toBytes)).answered .ok .plain 0 []) := by
  have hcovers : s.dev.covers Config.alarmBase r.toBytes.length = true :=
    s.dev.covers_of_wf h _ _ (by simp [Config.alarmBase, AlarmRecord.toBytes])
  simp only [alarmFieldWrite, s.memWrite_of_ok _ _ ha hcovers]
  rfl

/-- On `fail` of the second transfer SETALARM answers the error. -/
theorem alarmFieldWrite_of_fail (r : AlarmRecord) (s : State) (ha : s.transferAnswer = .fail) :
    alarmFieldWrite r s = .next ((s.issueWrite 0x0B r.toBytes).answered .i2cWriteError .plain 0 []) := by
  simp only [alarmFieldWrite, s.memWrite_of_fail _ _ ha]
  rfl

/-- The control byte's write keeps the register file canonical. -/
theorem State.afterAlarmControl_dev_wf (s : State) (h : s.dev.wf) : s.afterAlarmControl.dev.wf := by
  rw [s.afterAlarmControl_dev]
  exact s.dev.writeRange_wf _ _ h

/-- The five alarm registers are inside the register space. -/
theorem inRange_alarm (r : AlarmRecord) : Claims.InRange 0x0B r.toBytes.length := by
  simp [Claims.InRange, AlarmRecord.toBytes]

/-! ### The outcomes of INIT (R102) -/

/-- The seven time registers are inside the register space. -/
theorem inRange_time (r : TimeRecord) : Claims.InRange 0x04 r.toBytes.length := by
  simp [Claims.InRange, TimeRecord.toBytes]

/-- Without the device INIT answers the error, and asks nothing else. -/
theorem initDevice_of_fail (r : TimeRecord) (s : State) (hdev : s.deviceReadyAnswer = .fail) :
    initDevice r s = .next ((s.askDeviceReady.setGs .failed).answered .deviceSetupError .i2cDevice 0 []) := by
  simp only [initDevice, hdev]
  rfl

/-- Without the interrupt line INIT answers the error, and keeps the handle. -/
theorem initIrqLine_of_fail (r : TimeRecord) (s : State) (hirq : s.irqSetupAnswer = .fail) :
    initIrqLine r s = .next ((s.askIrqSetup.setGs .failed).answered .deviceSetupError .irqLine 0 []) := by
  simp only [initIrqLine, hirq]
  rfl

/-- On `ok` of the time write the seven bytes are stored and the guard is `Ready`. -/
theorem initWrite_of_ok (r : TimeRecord) (s : State) (h : s.dev.wf) (ha : s.transferAnswer = .ok) :
    initWrite r s = .next ((((s.issueWrite 0x04 r.toBytes).setDev
      (s.dev.writeRange 0x04 r.toBytes)).setGs .ready).answered .ok .plain 0 []) := by
  simp only [initWrite, Config.timeBase,
    s.memWrite_of_ok 0x04 r.toBytes ha (s.dev.covers_of_inRange h _ _ (inRange_time r))]
  rfl

/-- On `fail` of the time write INIT answers the error. -/
theorem initWrite_of_fail (r : TimeRecord) (s : State) (ha : s.transferAnswer = .fail) :
    initWrite r s
      = .next (((s.issueWrite 0x04 r.toBytes).setGs .failed).answered .i2cWriteError .plain 0 []) := by
  simp only [initWrite, s.memWrite_of_fail _ _ ha]
  rfl

section
variable (r : TimeRecord) (s : State) (hmask : timeMask r true = 0)
include hmask

/-- An INIT of a legal record without the device. -/
theorem exec_init_of_device_fail (hdev : s.deviceReadyAnswer = .fail) :
    exec (.init (some r)) s
      = .next ((s.askDeviceReady.setGs .failed).answered .deviceSetupError .i2cDevice 0 []) := by
  rw [exec_init_of_legal r s hmask, initDevice_of_fail r s hdev]

/-- An INIT of a legal record with the device but without the interrupt line. -/
theorem exec_init_of_irq_fail (hdev : s.deviceReadyAnswer = .ok) (hirq : s.askDeviceReady.irqSetupAnswer = .fail) :
    exec (.init (some r)) s
      = .next ((s.afterDeviceReady.askIrqSetup.setGs .failed).answered .deviceSetupError .irqLine 0 []) := by
  rw [exec_init_of_legal r s hmask, initDevice_of_ok r s hdev,
    initIrqLine_of_fail r _ (s.afterDeviceReady_answer.trans hirq)]

/-- An INIT of a legal record with the device and the interrupt line set up comes to its time write. -/
theorem exec_init_of_setup_ok (hdev : s.deviceReadyAnswer = .ok) (hirq : s.askDeviceReady.irqSetupAnswer = .ok) :
    exec (.init (some r)) s = initWrite r s.afterIrqLine := by
  rw [exec_init_of_legal r s hmask, initDevice_of_ok r s hdev, initIrqLine_of_ok r s hirq]

end

/-! ### Reading back what was written (R33, R37) -/

/-- A range of a canonical register file reads back as it was written. -/
theorem Memory.readRange_writeRange_of_wf (m : Memory) (h : m.wf) (start : Nat) (bs : List Byte)
    (hr : Claims.InRange start bs.length) :
    (m.writeRange start bs).readRange start bs.length = some bs :=
  m.readRange_writeRange start bs (m.covers_of_inRange h start bs.length hr)

/-- A range of one register is that register's byte. -/
theorem Memory.readRange_one (m : Memory) (a : Nat) (b : Byte) (h : m.read a = some b) :
    m.readRange a 1 = some [b] := by
  simp only [Memory.readRange, h]

/-- A READ that passes its checks and is answered `ok` answers the bytes of its range. -/
theorem exec_read_of_readRange (start len : Byte) (s : State) (bytes : List Byte)
    (hr : Claims.InRange start.toNat len.toNat) (hready : s.gs = .ready) (ha : s.transferAnswer = .ok)
    (hbytes : s.dev.readRange start.toNat len.toNat = some bytes) :
    exec (.read true start len) s = .next ((s.issueRead start.toNat len.toNat).answered .ok .plain 0 bytes) := by
  rw [exec_read_of_ready start len s hr hready, readTransfer_of_ok start len s bytes ha hbytes]

/-- After an INIT that answered `OK` the guard is `Ready` and the time registers are those written. -/
theorem init_ok_dev (r : TimeRecord) (s t : State) (hmask : timeMask r true = 0)
    (h : exec (.init (some r)) s = .next t) (hr : t.trace.head? = some (.response ⟨.ok, .plain, 0, []⟩)) :
    t.gs = .ready ∧ t.dev = s.dev.writeRange 0x04 r.toBytes := by
  obtain ⟨hbad, -⟩ | ⟨r', hr', -, ⟨-, rfl⟩ | ⟨-, ⟨-, rfl⟩ | ⟨-, ⟨-, rfl⟩ | ⟨-, rfl⟩ | ⟨-, rfl⟩⟩⟩⟩ :=
    exec_init_cases (some r) s t h
  case inl => exact absurd hmask (hbad r rfl)
  case inr.inr.inr.inl =>
    cases hr'
    exact ⟨rfl, rfl⟩
  all_goals cases hr

/-- After a SETALARM that answered `OK` the guard is as before, and the registers are those of its two writes. -/
theorem setalarm_ok_dev (r : AlarmRecord) (s t : State) (hmask : alarmMask r = 0)
    (h : exec (.setalarm (.bytes r.toBytes)) s = .next t)
    (hr : t.trace.head? = some (.response ⟨.ok, .plain, 0, []⟩)) :
    t.gs = s.gs ∧ t.dev = s.afterAlarmControl.dev.writeRange 0x0B r.toBytes := by
  obtain ⟨-, rfl⟩ | ⟨r', hr', ⟨-, rfl⟩ | ⟨-, ⟨-, rfl⟩ | ⟨-, rfl⟩ | ⟨-, ⟨-, rfl⟩ | ⟨-, rfl⟩ | ⟨-, rfl⟩⟩⟩⟩ :=
    exec_setalarm_cases _ s t h
  case inr.inr.inr.inr.inl =>
    cases (acceptedAlarm_of_legal r hmask).symm.trans hr'
    exact ⟨s.afterAlarmControl_gs, rfl⟩
  all_goals cases hr

/-! ### The statements -/

/-- Settles O32: one equation per answer, and the answer is the head of the environment's list. -/
theorem transportHasThreeAnswers : Obligations.TransportHasThreeAnswers := by
  refine fun s start bytes len hwf hwrite hread => ⟨fun ha => ?stored, fun ha => ?read, fun ha => ?failed,
    fun ha => ?hung, fun a rest henv => ?answer⟩
  case stored =>
    refine ⟨_, s.memWrite_of_ok start bytes ha (s.dev.covers_of_wf hwf start _ hwrite), rfl, fun i hi => ?_,
      s.dev.writeRange_read_outside start bytes, congrArg (· :: s.trace) (by rw [ha]; rfl)⟩
    exact s.dev.writeRange_read_inside start bytes i hi ((s.dev.read_isSome_of_wf hwf _).mpr (by omega))
  case read =>
    obtain ⟨got, hgot⟩ := s.dev.readRange_isSome_of_covers start len (s.dev.covers_of_wf hwf start len hread)
    exact ⟨_, got, s.memRead_of_ok start len got ha hgot, rfl, rfl, s.dev.readRange_length _ _ _ hgot,
      s.dev.readRange_getElem _ _ _ hgot, congrArg (· :: s.trace) (by rw [ha]; rfl)⟩
  case failed =>
    exact ⟨⟨_, s.memWrite_of_fail start bytes ha, rfl, rfl, congrArg (· :: s.trace) (by rw [ha]; rfl)⟩,
      _, s.memRead_of_fail start len ha, rfl, rfl, congrArg (· :: s.trace) (by rw [ha]; rfl)⟩
  case hung =>
    exact ⟨⟨_, s.memWrite_of_hang start bytes ha, rfl, rfl, congrArg (· :: s.trace) (by rw [ha]; rfl)⟩,
      _, s.memRead_of_hang start len ha, rfl, rfl, congrArg (· :: s.trace) (by rw [ha]; rfl)⟩
  case answer => simp [State.transferAnswer, Env.dropTransfer, henv]

/-- Settles O35: INIT comes to its time write with the handle and the callback, and the write stores the seven bytes. -/
theorem initSucceeds : Obligations.InitSucceeds := by
  intro r s hwf hmask hdev hirq ha
  have hwf' : s.afterIrqLine.dev.wf := by rwa [s.afterIrqLine_dev]
  have ha' := s.afterIrqLine_answer.trans ha
  rw [exec_init_of_setup_ok r s hmask hdev hirq, initWrite_of_ok r _ hwf' ha']
  refine ⟨_, rfl, rfl, s.afterIrqLine_hc, s.afterIrqLine_irqEn,
    s.afterIrqLine.dev.writeRange_read_inside_of_wf hwf' 0x04 r.toBytes (inRange_time r), fun a houtside => ?_,
    s.afterIrqLine_workPending, s.afterIrqLine_alarmFired, s.afterIrqLine_hung, s.afterIrqLine_agenda, ?_⟩
  · exact (s.afterIrqLine.dev.writeRange_read_outside 0x04 r.toBytes a houtside).trans (by rw [s.afterIrqLine_dev])
  · simp [ha', hirq, hdev, Config.chipAddr]

/-- Settles O36: one equation per failure. -/
theorem initFailuresAreDistinct : Obligations.InitFailuresAreDistinct := by
  refine fun r s hmask => ⟨fun hdev => ?device, fun hdev hirq => ?irqLine, fun hdev hirq ha => ?write⟩
  case device =>
    exact ⟨_, exec_init_of_device_fail r s hmask hdev, rfl, rfl, rfl, rfl, rfl, rfl, rfl, by simp [hdev]⟩
  case irqLine =>
    refine ⟨_, exec_init_of_irq_fail r s hmask hdev hirq, rfl, ?_⟩
    simp [s.afterDeviceReady_answer, hirq, hdev]
  case write =>
    have ha' := s.afterIrqLine_answer.trans ha
    rw [exec_init_of_setup_ok r s hmask hdev hirq, initWrite_of_fail r _ ha']
    refine ⟨_, rfl, rfl, ?_⟩
    simp [ha', hirq, hdev, Config.chipAddr]

/-- Settles O39: the control byte's write, then the write of the five alarm bytes, whose range leaves `0x01` alone. -/
theorem setalarmSucceeds : Obligations.SetalarmSucceeds := by
  intro r s hwf hmask hready hok ha
  have hwf' := s.afterAlarmControl_dev_wf hwf
  have ha' := s.afterAlarmControl_answer.trans ha
  rw [exec_setalarm_of_ready r s hmask hready, alarmControlWrite_of_ok r s hwf hok,
    alarmFieldWrite_of_ok r _ hwf' ha']
  have houtside := s.afterAlarmControl.dev.writeRange_read_outside 0x0B r.toBytes
  refine ⟨_, rfl, ?ctrl, ?fields, fun a hctrl hfields => ?other, s.afterAlarmControl_gs, s.afterAlarmControl_hc,
    s.afterAlarmControl_irqEn, s.afterAlarmControl_workPending, s.afterAlarmControl_alarmFired,
    s.afterAlarmControl_hung, s.afterAlarmControl_agenda, ?trace⟩
  case ctrl => exact (houtside 0x01 (.inl (by decide))).trans (s.afterAlarmControl_read_ctrl hwf)
  case fields =>
    exact s.afterAlarmControl.dev.writeRange_read_inside_of_wf hwf' 0x0B r.toBytes (inRange_alarm r)
  case other => exact (houtside a hfields).trans (s.afterAlarmControl_read_other a hctrl)
  case trace => simp [ha', hok, Config.chipAddr]

/-- Settles O40: each failing transfer is answered at once, on the state that its own call left. -/
theorem setalarmIsNotAtomic : Obligations.SetalarmIsNotAtomic := by
  refine fun r s hwf hmask hready => ⟨fun hfail => ?first, fun hok ha => ?second⟩ <;>
    rw [exec_setalarm_of_ready r s hmask hready]
  case first => exact ⟨_, alarmControlWrite_of_fail r s hfail, rfl, rfl, by simp [hfail, Config.chipAddr]⟩
  case second =>
    have ha' := s.afterAlarmControl_answer.trans ha
    rw [alarmControlWrite_of_ok r s hwf hok, alarmFieldWrite_of_fail r _ ha']
    exact ⟨_, rfl, s.afterAlarmControl_read_ctrl hwf, s.afterAlarmControl_read_other, s.afterAlarmControl_gs,
      by simp [ha', hok, Config.chipAddr]⟩

/-- Settles O41: the WRITE stores its bytes, and the range reads back as written. -/
theorem readReturnsWhatWriteStored : Obligations.ReadReturnsWhatWriteStored := by
  intro start bs s t hwf hr hready ha h ha'
  have hnat : (BitVec.ofNat 8 bs.length).toNat = bs.length := by
    obtain ⟨-, hlen, -⟩ := hr
    rw [BitVec.toNat_ofNat]
    omega
  obtain ⟨hgs, hdev⟩ : t.gs = s.gs ∧ t.dev = s.dev.writeRange start.toNat bs := by
    rw [exec_write_of_ready start bs s hr hready,
      writeTransfer_of_ok start bs s ha (s.dev.covers_of_inRange hwf _ _ hr)] at h
    cases h
    exact ⟨rfl, rfl⟩
  have hread := exec_read_of_readRange start (BitVec.ofNat 8 bs.length) t bs (by rwa [hnat]) (hgs.trans hready) ha'
    (by rw [hnat, hdev]; exact s.dev.readRange_writeRange_of_wf hwf _ _ hr)
  rwa [hnat] at hread

/-- Settles O42: after `OK` the registers are those written, and the written ranges read back. -/
theorem recordsReadBack : Obligations.RecordsReadBack := by
  refine ⟨fun r s t hwf hmask h hr ha => ?time, fun r s t hwf hmask hready h hr ha => ?alarm⟩
  case time =>
    obtain ⟨hready, hdev⟩ := init_ok_dev r s t hmask h hr
    refine exec_read_of_readRange 0x04 7 t r.toBytes (inRange_time r) hready ha ?_
    rw [hdev]
    exact s.dev.readRange_writeRange_of_wf hwf 0x04 r.toBytes (inRange_time r)
  case alarm =>
    obtain ⟨hgs, hdev⟩ := setalarm_ok_dev r s t hmask h hr
    have hctrl : t.dev.read 0x01 = some 0x80 := by
      rw [hdev, Memory.writeRange_read_outside _ 0x0B r.toBytes 0x01 (.inl (by decide)),
        s.afterAlarmControl_read_ctrl hwf]
    refine ⟨exec_read_of_readRange 0x0B 5 t r.toBytes (inRange_alarm r) (hgs.trans hready) ha ?_,
      exec_read_of_readRange 0x01 1 t [0x80] ⟨by decide, by decide, by decide⟩ (hgs.trans hready) ha ?_⟩
    · rw [hdev]
      exact Memory.readRange_writeRange_of_wf _ (s.afterAlarmControl_dev_wf hwf) 0x0B r.toBytes (inRange_alarm r)
    · exact t.dev.readRange_one 0x01 0x80 hctrl

end Sys2Proof.Machine
end

section
/-! SUPPORT. Proofs of the statements over whole steps: what a step runs (spec/10_state.md R20), the hang (R17, R22),
the invariant and progress (43_register_access.md R109, 20_memory.md R35, R45), who writes which element (10_state.md R11 to
R15, 20_memory.md R37), and the deferred run (60_exceptions.md R129, R130). First all that a step can do, said once. -/

namespace Sys2Proof.Machine

/-! ### Everything a step can do -/

/-- A step with nothing on the agenda is a turn of the deferred-work runner. -/
theorem step_of_idle (s : State) (ha : s.agenda = []) : step s = takeRun s := by
  simp [step, nextStep, ha]

/-- A step on a command that the block accepts runs it (R20). -/
theorem step_of_command (s : State) (w : CmdWord) (din : List Byte) (rest : List Event) (i : Instr)
    (hh : s.hung = false) (ha : s.agenda = .command w din :: rest) (hi : decode w din = .instr i) :
    step s = exec i (s.setAgenda rest) := by
  rw [step_of_agenda_cons s _ rest ha]
  simp only [takeEvent, acceptCommand, State.setAgenda_hung, hh, hi, Bool.false_eq_true, if_false]

/-- An edge changes the queue and nothing else (R127). -/
theorem stepEdge_eq (s : State) : stepEdge s = s.setWorkPending (s.irqEn || s.workPending) := by
  cases hirq : s.irqEn with
  | false => exact stepEdge_of_not_irqEn s hirq
  | true => exact stepEdge_of_irqEn s hirq

/-- The outcomes of a step: what was taken off the agenda, and what that made of the rest of the block. -/
inductive StepOutcome (s : State) : State → Prop where
  /-- A command was run. -/
  | command {t : State} (w : CmdWord) (din : List Byte) (rest : List Event) (i : Instr)
      (ha : s.agenda = .command w din :: rest) (hi : decode w din = .instr i)
      (h : exec i (s.setAgenda rest) = .next t) : StepOutcome s t
  /-- A word that is no command was answered. -/
  | illegal (rest : List Event) (ha : rest <:+ s.agenda) :
      StepOutcome s ((s.setAgenda rest).answered .illegalCommand .plain 0 [])
  /-- An edge was taken. -/
  | edge (rest : List Event) (ha : rest <:+ s.agenda) : StepOutcome s (stepEdge (s.setAgenda rest))
  /-- The deferred run happened, on its event or in an idle step. -/
  | run {t : State} (rest : List Event) (ha : s.agenda = .run :: rest ∨ (s.agenda = [] ∧ rest = []))
      (hp : s.workPending = true) (hh : s.hung = false) (h : stepRun (s.setAgenda rest) = .next t) : StepOutcome s t
  /-- The latch was cleared. -/
  | clear (rest : List Event) (ha : s.agenda = .clear :: rest) :
      StepOutcome s ((s.setAgenda rest).setAlarmFired false)
  /-- The block was reset. -/
  | reset (rest : List Event) (ha : s.agenda = .reset :: rest) : StepOutcome s (stepReset (s.setAgenda rest))
  /-- An event that is not enabled was dropped, or the step was idle. -/
  | dropped (rest : List Event) (ha : rest <:+ s.agenda) : StepOutcome s (s.setAgenda rest)

/-- Every step that gives a next state has one of these outcomes. -/
theorem stepOutcome (s t : State) (h : step s = .next t) : StepOutcome s t := by
  obtain ⟨ha, hrun⟩ | ⟨e, rest, ha, hevent⟩ := step_cases s t h
  · have hself : s.setAgenda [] = s := by rw [← ha]; rfl
    obtain ⟨hp, hh, hstep⟩ | ⟨-, ht⟩ := takeRun_cases s t hrun
    · exact .run [] (.inr ⟨ha, rfl⟩) hp hh (hself ▸ hstep)
    · exact ht ▸ .dropped s.agenda (List.suffix_refl _)
  have hsuffix : rest <:+ s.agenda := ha ▸ List.suffix_cons e rest
  cases e with
  | command w din =>
    obtain ⟨-, rfl⟩ | ⟨-, ⟨i, hi, hexec⟩ | ⟨-, rfl⟩⟩ := acceptCommand_cases w din _ t hevent
    · exact .dropped rest hsuffix
    · exact .command w din rest i ha hi hexec
    · exact .illegal rest hsuffix
  | edge =>
    simp only [takeEvent, takeEdge] at hevent
    split at hevent <;> cases hevent
    · exact .dropped rest hsuffix
    · exact .edge rest hsuffix
  | run =>
    obtain ⟨hp, hh, hstep⟩ | ⟨-, rfl⟩ := takeRun_cases _ t hevent
    · exact .run rest (.inl ha) hp hh hstep
    · exact .dropped rest hsuffix
  | clear =>
    cases hevent
    exact .clear rest ha
  | reset =>
    cases hevent
    exact .reset rest ha

/-! ### The invariant -/

/-- The invariant speaks of the device's registers, the guard, the handle, the callback and the queue only. -/
theorem State.Inv.of_sameElements {s t : State} (hinv : s.Inv) (hsame : s.SameElements t)
    (hkeys : t.dev.map Prod.fst = s.dev.map Prod.fst) : t.Inv where
  dev_wf := hkeys.trans hinv.dev_wf
  ready_hc := by rw [hsame.gs, hsame.hc]; exact hinv.ready_hc
  ready_irqEn := by rw [hsame.gs, hsame.irqEn]; exact hinv.ready_irqEn
  irqEn_hc := by rw [hsame.irqEn, hsame.hc]; exact hinv.irqEn_hc
  pending_irqEn := by rw [hsame.workPending, hsame.irqEn]; exact hinv.pending_irqEn

/-- What comes next is no part of the invariant. -/
theorem State.Inv.setAgenda {s : State} (hinv : s.Inv) (rest : List Event) : (s.setAgenda rest).Inv :=
  hinv.of_sameElements ⟨rfl, rfl, rfl, rfl, rfl⟩ rfl

section
variable {s t : State} (hinv : s.Inv)
include hinv

/-- INIT keeps the invariant: it sets the handle, then the callback, and then it makes the guard `Ready` (R102). -/
theorem init_keeps_inv (record : Option TimeRecord) (h : exec (.init record) s = .next t) : t.Inv := by
  have hwf := (commandKeeps_exec (.init record) s t h).keys.trans hinv.dev_wf
  obtain ⟨-, rfl⟩ | ⟨r, -, -, ⟨-, rfl⟩ | ⟨-, ⟨-, rfl⟩ | ⟨-, ⟨-, rfl⟩ | ⟨-, rfl⟩ | ⟨-, rfl⟩⟩⟩⟩ :=
    exec_init_cases record s t h
  · exact hinv.of_sameElements ⟨rfl, rfl, rfl, rfl, rfl⟩ rfl
  · exact ⟨hwf, nofun, nofun, hinv.irqEn_hc, hinv.pending_irqEn⟩
  · exact ⟨hwf, nofun, nofun, by simp, by simpa using hinv.pending_irqEn⟩
  all_goals exact ⟨hwf, by simp, by simp, by simp, by simp⟩

/-- Every command keeps the invariant. -/
theorem exec_keeps_inv (i : Instr) (h : exec i s = .next t) : t.Inv := by
  by_cases hinit : ∃ record, i = .init record
  · obtain ⟨record, rfl⟩ := hinit
    exact init_keeps_inv hinv record h
  · exact hinv.of_sameElements (sameElements_of_not_init i s t (not_exists.mp hinit) h)
      (commandKeeps_exec i s t h).keys

/-- An edge keeps the invariant: it queues an item only where a callback is registered (R127). -/
theorem stepEdge_keeps_inv : (stepEdge s).Inv := by
  rw [stepEdge_eq]
  refine ⟨hinv.dev_wf, hinv.ready_hc, hinv.ready_irqEn, hinv.irqEn_hc, fun hqueued => ?_⟩
  obtain hirq | hpending := (Bool.or_eq_true ..).mp hqueued
  · exact hirq
  · exact hinv.pending_irqEn hpending

/-- The deferred run keeps the invariant: it takes the queued item and leaves the rest (R128). -/
theorem stepRun_keeps_inv (h : stepRun s = .next t) : t.Inv := by
  obtain ⟨_, -, -, rfl⟩ | ⟨-, rfl⟩ | ⟨-, rfl⟩ := stepRun_cases s t h <;>
    exact ⟨hinv.dev_wf, hinv.ready_hc, hinv.ready_irqEn, hinv.irqEn_hc, nofun⟩

/-- `RESET` keeps the invariant: it leaves the registers, and makes the block as at reset (R140). -/
theorem stepReset_keeps_inv : (stepReset s).Inv :=
  ⟨hinv.dev_wf, nofun, nofun, nofun, nofun⟩

/-- Every step keeps the invariant. -/
theorem step_keeps_inv (h : step s = .next t) : t.Inv := by
  cases stepOutcome s t h with
  | command w din rest i _ _ hexec => exact exec_keeps_inv (hinv.setAgenda rest) i hexec
  | illegal rest => exact (hinv.setAgenda rest).of_sameElements ⟨rfl, rfl, rfl, rfl, rfl⟩ rfl
  | edge rest => exact stepEdge_keeps_inv (hinv.setAgenda rest)
  | run rest _ _ _ hrun => exact stepRun_keeps_inv (hinv.setAgenda rest) hrun
  | clear rest => exact ⟨hinv.dev_wf, hinv.ready_hc, hinv.ready_irqEn, hinv.irqEn_hc, hinv.pending_irqEn⟩
  | reset rest => exact stepReset_keeps_inv (hinv.setAgenda rest)
  | dropped rest => exact hinv.setAgenda rest

end

/-! ### Progress (R35, R45) -/

/-- The arguments of READ that are not rejected. -/
theorem good_read_arguments {present : Bool} {start len : Byte}
    (hgood : ¬ Claims.BadArguments (.read present start len)) :
    present = true ∧ Claims.InRange start.toNat len.toNat := by
  obtain ⟨hpresent, hrange⟩ := not_or.mp hgood
  exact ⟨by simpa using hpresent, not_not.mp hrange⟩

/-- The arguments of WRITE that are not rejected. -/
theorem good_write_arguments {start : Byte} {src : Source} (hgood : ¬ Claims.BadArguments (.write start src)) :
    ∃ bs, src = .bytes bs ∧ Claims.InRange start.toNat bs.length := by
  cases src with
  | null len => exact absurd trivial hgood
  | bytes bs => exact ⟨bs, rfl, not_not.mp hgood⟩

/-- The arguments of SETALARM that are not rejected. -/
theorem good_setalarm_arguments {src : Source} (hgood : ¬ Claims.BadArguments (.setalarm src)) :
    ∃ r : AlarmRecord, src = .bytes r.toBytes ∧ alarmMask r = 0 := by
  cases src with
  | null len => exact absurd trivial hgood
  | bytes bs =>
    obtain ⟨-, hlegal⟩ := not_or.mp hgood
    push Not at hlegal
    obtain ⟨r, rfl, hmask⟩ := hlegal
    exact ⟨r, rfl, hmask⟩

/-- The arguments of INIT that are not rejected. -/
theorem good_init_arguments {record : Option TimeRecord} (hgood : ¬ Claims.BadArguments (.init record)) :
    ∃ r, record = some r ∧ timeMask r true = 0 := by
  cases record with
  | none => exact absurd trivial hgood
  | some r => exact ⟨r, rfl, not_not.mp hgood⟩

section
variable (s : State) (hwf : s.dev.wf)
include hwf

/-- On a canonical register file the transfer of a READ in range gives a next state, whatever the answer. -/
theorem exists_readTransfer (start len : Byte) (hr : Claims.InRange start.toNat len.toNat) :
    ∃ t, readTransfer start len s = .next t := by
  obtain ⟨bytes, hbytes, -⟩ := s.dev.exists_readRange_of_wf hwf _ _ hr
  cases ha : s.transferAnswer with
  | ok => exact ⟨_, readTransfer_of_ok start len s bytes ha hbytes⟩
  | fail => exact ⟨_, readTransfer_of_fail start len s ha⟩
  | hang => exact ⟨_, readTransfer_of_hang start len s ha⟩

/-- On a canonical register file the transfer of a WRITE in range gives a next state, whatever the answer. -/
theorem exists_writeTransfer (start : Byte) (bs : List Byte) (hr : Claims.InRange start.toNat bs.length) :
    ∃ t, writeTransfer start bs s = .next t := by
  cases ha : s.transferAnswer with
  | ok => exact ⟨_, writeTransfer_of_ok start bs s ha (s.dev.covers_of_inRange hwf _ _ hr)⟩
  | fail => exact ⟨_, writeTransfer_of_fail start bs s ha⟩
  | hang => exact ⟨_, writeTransfer_of_hang start bs s ha⟩

/-- On a canonical register file the two transfers of SETALARM give a next state, whatever the answers. -/
theorem exists_alarmControlWrite (r : AlarmRecord) : ∃ t, alarmControlWrite r s = .next t := by
  cases ha : s.transferAnswer with
  | ok =>
    rw [alarmControlWrite_of_ok r s hwf ha]
    have hwf' := s.afterAlarmControl_dev_wf hwf
    cases ha' : s.afterAlarmControl.transferAnswer with
    | ok => exact ⟨_, alarmFieldWrite_of_ok r _ hwf' ha'⟩
    | fail => exact ⟨_, alarmFieldWrite_of_fail r _ ha'⟩
    | hang => exact ⟨_, alarmFieldWrite_of_hang r _ ha'⟩
  | fail => exact ⟨_, alarmControlWrite_of_fail r s ha⟩
  | hang => exact ⟨_, alarmControlWrite_of_hang r s ha⟩

/-- On a canonical register file the deferred run gives a next state, whatever the answer. -/
theorem exists_stepRun : ∃ t, stepRun s = .next t := by
  obtain ⟨bytes, hbytes, -⟩ := s.dev.exists_readRange_of_wf hwf 0 18 ⟨by decide, by decide, by decide⟩
  cases ha : s.transferAnswer with
  | ok => exact ⟨_, stepRun_of_ok s bytes ha hbytes⟩
  | fail => exact ⟨_, stepRun_of_fail s ha⟩
  | hang => exact ⟨_, stepRun_of_hang s ha⟩

/-- On a canonical register file every command that a word can carry gives a next state. -/
theorem exists_exec (i : Instr) (hi : i.WellFormed = true) : ∃ t, exec i s = .next t := by
  by_cases hpure : i.IsPure
  · obtain ⟨r, hr⟩ := exec_of_isPure i hpure
    exact ⟨_, hr s⟩
  by_cases hbad : Claims.BadArguments i
  · exact ⟨_, exec_of_badArguments i s hi hbad⟩
  cases i with
  | init record =>
    obtain ⟨r, rfl, hmask⟩ := good_init_arguments hbad
    exact exists_exec_init r s hwf hmask
  | read present start len =>
    obtain ⟨rfl, hr⟩ := good_read_arguments hbad
    by_cases hready : s.gs = .ready
    · rw [exec_read_of_ready start len s hr hready]
      exact exists_readTransfer s hwf start len hr
    · exact ⟨_, exec_read_of_not_ready start len s hr hready⟩
  | write start src =>
    obtain ⟨bs, rfl, hr⟩ := good_write_arguments hbad
    by_cases hready : s.gs = .ready
    · rw [exec_write_of_ready start bs s hr hready]
      exact exists_writeTransfer s hwf start bs hr
    · exact ⟨_, exec_write_of_not_ready start bs s hr hready⟩
  | setalarm src =>
    obtain ⟨r, rfl, hmask⟩ := good_setalarm_arguments hbad
    by_cases hready : s.gs = .ready
    · rw [exec_setalarm_of_ready r s hmask hready]
      exact exists_alarmControlWrite s hwf r
    · exact ⟨_, exec_setalarm_of_not_ready r s hmask hready⟩
  | enc | dec | month | parse | vtime | valarm | vrange => exact absurd trivial hpure

/-- On a canonical register file the turn of the deferred-work runner gives a next state. -/
theorem exists_takeRun : ∃ t, takeRun s = .next t := by
  unfold takeRun
  split
  · exact exists_stepRun s hwf
  · exact ⟨s, rfl⟩

/-- On a canonical register file a presentable event gives a next state (R58). -/
theorem exists_takeEvent (e : Event) (he : e.Presentable) : ∃ t, takeEvent e s = .next t := by
  cases e with
  | command w din =>
    change ∃ t, acceptCommand w din s = .next t
    unfold acceptCommand
    split
    · exact ⟨s, rfl⟩
    cases hd : decode w din with
    | instr i => exact exists_exec s hwf i (wellFormed_of_decode hd)
    | illegalWord => exact ⟨_, rfl⟩
    | dinLength => exact absurd he ((decode_eq_dinLength_iff w din).mp hd)
  | edge =>
    change ∃ t, takeEdge s = .next t
    unfold takeEdge
    split <;> exact ⟨_, rfl⟩
  | run => exact exists_takeRun s hwf
  | clear => exact ⟨_, rfl⟩
  | reset => exact ⟨_, rfl⟩

/-- On a canonical register file with a presentable event ahead, or none, a step gives a next state. -/
theorem exists_step (hagenda : s.AgendaOk) : ∃ t, step s = .next t := by
  cases ha : s.agenda with
  | nil =>
    rw [step_of_idle s ha]
    exact exists_takeRun s hwf
  | cons e rest =>
    rw [step_of_agenda_cons s e rest ha]
    exact exists_takeEvent (s.setAgenda rest) hwf e (hagenda e (ha ▸ List.mem_cons_self))

end

/-- A step takes at most the head off the agenda and puts nothing on it. -/
theorem step_agenda_suffix (s t : State) (h : step s = .next t) : t.agenda <:+ s.agenda := by
  cases stepOutcome s t h with
  | command w din rest i ha _ hexec =>
    rw [(commandKeeps_exec i _ t hexec).agenda, ha]
    exact List.suffix_cons _ _
  | illegal rest ha | dropped rest ha => exact ha
  | edge rest ha =>
    rw [stepEdge_eq]
    exact ha
  | run rest ha _ _ hrun =>
    have hrest : rest <:+ s.agenda := by
      obtain ha | ⟨ha, rfl⟩ := ha
      · exact ha ▸ List.suffix_cons _ _
      · exact List.nil_suffix
    obtain ⟨_, -, -, rfl⟩ | ⟨-, rfl⟩ | ⟨-, rfl⟩ := stepRun_cases _ t hrun <;> exact hrest
  | clear rest ha | reset rest ha => exact ha ▸ List.suffix_cons _ _

/-! ### The transfers of a step (R35, R36) -/

/-- What leaves the block in between stays in bounds when the questions asked do. -/
theorem inBounds_of_callsMade {s t : State} {calls : List Output} (hcalls : Claims.CallsMade s t calls)
    (hin : ∀ o ∈ calls, o.InBounds) (htrace : ∀ o ∈ s.trace, o.InBounds) : ∀ o ∈ t.trace, o.InBounds := by
  obtain ⟨news, hnews, hfilter⟩ := hcalls
  intro o ho
  rw [hnews, List.mem_append] at ho
  obtain ho | ho := ho
  · by_cases hcall : o.isCall = true
    · exact hin o (hfilter ▸ List.mem_filter.mpr ⟨ho, hcall⟩)
    · cases o with
      | response | snapshot => trivial
      | deviceReady | irqSetup | burstRead | burstWrite => exact absurd rfl hcall
  · exact htrace o ho

/-- A burst write in range is in bounds. -/
theorem inBounds_burstWrite {start : Nat} {bs : List Byte} {answer : TransferAnswer}
    (hr : Claims.InRange start bs.length) : (Output.burstWrite 0x51 start bs answer).InBounds := by
  obtain ⟨hpos, -, hend⟩ := hr
  exact ⟨rfl, hpos, hend⟩

/-- A burst read in range is in bounds. -/
theorem inBounds_burstRead {start len : Nat} {answer : TransferAnswer} (hr : Claims.InRange start len) :
    (Output.burstRead 0x51 start len answer).InBounds := by
  obtain ⟨hpos, -, hend⟩ := hr
  exact ⟨rfl, hpos, hend⟩

/-- INIT's transfer is in bounds, however far it comes (R102). -/
theorem init_calls_inBounds (r : TimeRecord) (s t : State) (hmask : timeMask r true = 0)
    (h : exec (.init (some r)) s = .next t) : ∃ calls, Claims.CallsMade s t calls ∧ ∀ o ∈ calls, o.InBounds := by
  obtain ⟨hnoDevice, hnoLine, hwrite⟩ := callsMade_init r s t hmask h
  cases hdev : s.deviceReadyAnswer with
  | fail => exact ⟨_, hnoDevice hdev, by simp [Output.InBounds]⟩
  | ok =>
    cases hirq : s.askDeviceReady.irqSetupAnswer with
    | fail => exact ⟨_, hnoLine hdev hirq, by simp [Output.InBounds]⟩
    | ok =>
      refine ⟨_, hwrite hdev hirq, List.forall_mem_cons.mpr ⟨inBounds_burstWrite (inRange_time r), ?_⟩⟩
      simp [Output.InBounds]

/-- SETALARM's transfers are in bounds, whether there are one or two (R105). -/
theorem setalarm_calls_inBounds (r : AlarmRecord) (s t : State) (hmask : alarmMask r = 0) (hready : s.gs = .ready)
    (h : exec (.setalarm (.bytes r.toBytes)) s = .next t) :
    ∃ calls, Claims.CallsMade s t calls ∧ ∀ o ∈ calls, o.InBounds := by
  obtain ⟨hboth, hfirst⟩ := callsMade_setalarm r s t hmask hready h
  have hctrl : Claims.InRange 0x01 [(0x80 : Byte)].length := ⟨by decide, by decide, by decide⟩
  by_cases hok : s.transferAnswer = .ok
  · exact ⟨_, hboth hok, List.forall_mem_cons.mpr ⟨inBounds_burstWrite (inRange_alarm r),
      List.forall_mem_singleton.mpr (inBounds_burstWrite hctrl)⟩⟩
  · exact ⟨_, hfirst hok, List.forall_mem_singleton.mpr (inBounds_burstWrite hctrl)⟩

/-- The questions of every command that a word can carry are in bounds: a rejected or refused command asks none, and an
accepted range is inside the register space (R35, R38). -/
theorem exec_calls_inBounds (i : Instr) (s t : State) (hi : i.WellFormed = true) (h : exec i s = .next t) :
    ∃ calls, Claims.CallsMade s t calls ∧ ∀ o ∈ calls, o.InBounds := by
  by_cases hbad : Claims.BadArguments i
  · exact ⟨[], callsMade_of_badArguments i s t hi hbad h, nofun⟩
  by_cases hrefused : (∀ record, i ≠ .init record) ∧ s.gs ≠ .ready
  · obtain ⟨hinit, hguard⟩ := hrefused
    exact ⟨[], callsMade_of_not_ready i s t hinit hguard h, nofun⟩
  have hready (hinit : ∀ record, i ≠ .init record) : s.gs = .ready := by
    by_contra hguard
    exact hrefused ⟨hinit, hguard⟩
  cases i with
  | init record =>
    obtain ⟨r, rfl, hmask⟩ := good_init_arguments hbad
    exact init_calls_inBounds r s t hmask h
  | read present start len =>
    obtain ⟨rfl, hr⟩ := good_read_arguments hbad
    exact ⟨_, callsMade_read start len s t hr (hready nofun) h,
      List.forall_mem_singleton.mpr (inBounds_burstRead hr)⟩
  | write start src =>
    obtain ⟨bs, rfl, hr⟩ := good_write_arguments hbad
    exact ⟨_, callsMade_write start bs s t hr (hready nofun) h,
      List.forall_mem_singleton.mpr (inBounds_burstWrite hr)⟩
  | setalarm src =>
    obtain ⟨r, rfl, hmask⟩ := good_setalarm_arguments hbad
    exact setalarm_calls_inBounds r s t hmask (hready nofun) h
  | enc | dec | month | parse | vtime | valarm | vrange =>
    exact ⟨[], callsMade_of_isPure _ s t (by trivial) h, nofun⟩

/-- The questions of every step are in bounds. -/
theorem step_calls_inBounds (s t : State) (h : step s = .next t) :
    ∃ calls, Claims.CallsMade s t calls ∧ ∀ o ∈ calls, o.InBounds := by
  have hnone (rest : List Event) : Claims.CallsMade s (s.setAgenda rest) [] :=
    (Claims.CallsMade.refl s).of_trace_eq rfl
  cases stepOutcome s t h with
  | command w din rest i _ hi hexec =>
    exact exec_calls_inBounds i (s.setAgenda rest) t (wellFormed_of_decode hi) hexec
  | illegal rest => exact ⟨[], (hnone rest).answered .., nofun⟩
  | edge rest => exact ⟨[], (hnone rest).of_trace_eq (by rw [stepEdge_eq]; rfl), nofun⟩
  | run rest _ _ _ hrun =>
    exact ⟨_, callsMade_stepRun (s.setAgenda rest) t hrun,
      List.forall_mem_singleton.mpr (inBounds_burstRead ⟨by decide, by decide, by decide⟩)⟩
  | clear rest | reset rest | dropped rest => exact ⟨[], (hnone rest).of_trace_eq rfl, nofun⟩

/-! ### Who writes which element (R11 to R15, R37) -/

/-- A command that changes a register is INIT, WRITE or SETALARM. -/
theorem writer_of_dev_ne (i : Instr) (s t : State) (a : Nat) (h : exec i s = .next t)
    (hne : t.dev.read a ≠ s.dev.read a) :
    (∃ r, i = .init r) ∨ (∃ b src, i = .write b src) ∨ ∃ src, i = .setalarm src := by
  cases i with
  | init record => exact .inl ⟨record, rfl⟩
  | write start src => exact .inr (.inl ⟨start, src, rfl⟩)
  | setalarm src => exact .inr (.inr ⟨src, rfl⟩)
  | read present start len => exact absurd (by rw [exec_read_dev present start len s t h]) hne
  | enc | dec | month | parse | vtime | valarm | vrange =>
    obtain ⟨r, rfl⟩ := exec_pure_answer _ s t (by trivial) h
    exact absurd rfl hne

/-- The deferred run leaves the guard, the handle, the callback and the registers alone, and never clears the latch. -/
theorem stepRun_frame (s t : State) (h : stepRun s = .next t) :
    t.gs = s.gs ∧ t.hc = s.hc ∧ t.irqEn = s.irqEn ∧ t.dev = s.dev
      ∧ (t.alarmFired = true ∨ t.alarmFired = s.alarmFired) := by
  obtain ⟨_, -, -, rfl⟩ | ⟨-, rfl⟩ | ⟨-, rfl⟩ := stepRun_cases s t h
  · exact ⟨rfl, rfl, rfl, rfl, .inl rfl⟩
  · exact ⟨rfl, rfl, rfl, rfl, .inl rfl⟩
  · exact ⟨rfl, rfl, rfl, rfl, .inr rfl⟩

/-- No step but INIT and `RESET` changes the guard state (R11). -/
theorem step_keeps_gs (s t : State) (h : step s = .next t) (hreset : ∀ rest, s.agenda ≠ .reset :: rest)
    (hinit : ∀ w din rest record, s.agenda = .command w din :: rest → decode w din ≠ .instr (.init record)) :
    t.gs = s.gs := by
  cases stepOutcome s t h with
  | command w din rest i ha hi hexec =>
    refine exec_gs_of_not_init i (s.setAgenda rest) t ?_ hexec
    rintro record rfl
    exact hinit w din rest record ha hi
  | edge rest => rw [stepEdge_eq]; rfl
  | run rest _ _ _ hrun =>
    obtain ⟨hgs, -⟩ := stepRun_frame _ t hrun
    exact hgs
  | reset rest ha => exact absurd ha (hreset rest)
  | illegal | clear | dropped => rfl

/-- No step but `RESET` clears the handle or the callback (R12, R13). -/
theorem step_keeps_hc_irqEn (s t : State) (h : step s = .next t) (hreset : ∀ rest, s.agenda ≠ .reset :: rest) :
    (s.hc = true → t.hc = true) ∧ (s.irqEn = true → t.irqEn = true) := by
  cases stepOutcome s t h with
  | command w din rest i _ _ hexec =>
    have hkeeps := commandKeeps_exec i _ t hexec
    exact ⟨hkeeps.hc, hkeeps.irqEn⟩
  | edge rest => rw [stepEdge_eq]; exact ⟨id, id⟩
  | run rest _ _ _ hrun =>
    obtain ⟨-, hhc, hirq, -⟩ := stepRun_frame _ t hrun
    exact ⟨fun h => hhc.trans h, fun h => hirq.trans h⟩
  | reset rest ha => exact absurd ha (hreset rest)
  | illegal | clear | dropped => exact ⟨id, id⟩

/-- What a step can make of the latch: leave it, set it in a deferred run, clear it by `CLEAR` or `RESET` (R15). -/
theorem step_alarmFired_cases (s t : State) (h : step s = .next t) :
    t.alarmFired = s.alarmFired
      ∨ (t.alarmFired = true ∧ s.workPending = true ∧ s.hung = false
        ∧ (s.agenda = [] ∨ ∃ rest, s.agenda = .run :: rest))
      ∨ (t.alarmFired = false ∧ ∃ rest, s.agenda = .clear :: rest ∨ s.agenda = .reset :: rest) := by
  cases stepOutcome s t h with
  | command w din rest i _ _ hexec =>
    obtain ⟨hfired, -⟩ := exec_keeps_latch_and_queue i _ t hexec
    exact .inl hfired
  | edge rest => exact .inl (by rw [stepEdge_eq]; rfl)
  | run rest ha hp hh hrun =>
    obtain ⟨-, -, -, -, hset | hsame⟩ := stepRun_frame _ t hrun
    · exact .inr (.inl ⟨hset, hp, hh, ha.symm.imp And.left fun ha => ⟨rest, ha⟩⟩)
    · exact .inl hsame
  | clear rest ha => exact .inr (.inr ⟨rfl, rest, .inl ha⟩)
  | reset rest ha => exact .inr (.inr ⟨rfl, rest, .inr ha⟩)
  | illegal | dropped => exact .inl rfl

/-! ### Edges before the deferred run (R129) -/

/-- A second edge finds the item queued already. -/
theorem stepEdge_idem (s : State) : stepEdge (stepEdge s) = stepEdge s := by
  simp only [stepEdge_eq, State.setWorkPending_irqEn, State.setWorkPending_workPending, Bool.or_self_left]
  rfl

/-- An edge does not look at what comes next. -/
theorem stepEdge_setAgenda (s : State) (rest : List Event) :
    stepEdge (s.setAgenda rest) = (stepEdge s).setAgenda rest := by
  rw [stepEdge_eq, stepEdge_eq]
  rfl

/-- A block that is not hung takes an edge that comes next. -/
theorem step_setAgenda_edge (s : State) (rest : List Event) (hh : s.hung = false) :
    step (s.setAgenda (.edge :: rest)) = .next ((stepEdge s).setAgenda rest) := by
  rw [step_of_edge (s.setAgenda (.edge :: rest)) rest hh rfl]
  exact congrArg Host.Outcome.next (stepEdge_setAgenda s rest)

/-- One or more edges in a row leave the block as one does. -/
theorem steps_edges (n : Nat) (s : State) (rest : List Event) (hh : s.hung = false) :
    steps (n + 1) (s.setAgenda (List.replicate (n + 1) .edge ++ rest)) = .next ((stepEdge s).setAgenda rest) := by
  induction n generalizing s with
  | zero => simp only [steps, List.replicate_succ, List.replicate_zero, List.cons_append, List.nil_append,
      step_setAgenda_edge s _ hh]
  | succ n ih =>
    have hh' : (stepEdge s).hung = false := by rwa [stepEdge_eq]
    rw [steps, List.replicate_succ, List.cons_append, step_setAgenda_edge s _ hh]
    exact (ih (stepEdge s) hh').trans (by rw [stepEdge_idem])

/-! ### The statements -/

/-- Settles O12: the power-on registers are canonical, and the block is neither `Ready` nor has anything queued. -/
theorem resetMeetsInvariant : Obligations.ResetMeetsInvariant :=
  ⟨Memory.powerOn_wf, nofun, nofun, nofun, nofun⟩

/-- Settles O13: every outcome of a step keeps the invariant, INIT as it sets handle and callback before `Ready`. -/
theorem everyStepKeepsInvariant : Obligations.EveryStepKeepsInvariant :=
  fun _ _ hinv h => step_keeps_inv hinv h

/-- Settles O14: the canonical register file has every register that a transfer in range touches, and a presentable pair
has the length its word asks for. -/
theorem machineNeverStops : Obligations.MachineNeverStops := by
  intro s hinv hagenda
  obtain ⟨t, ht⟩ := exists_step s hinv.dev_wf hagenda
  exact ⟨t, ht, step_keeps_inv hinv ht, fun e he => hagenda e ((step_agenda_suffix s t ht).subset he)⟩

/-- Settles O15: the questions a step asks are those of R38, and each is in bounds. -/
theorem transfersStayInRegisterSpace : Obligations.TransfersStayInRegisterSpace := by
  intro s t htrace h
  obtain ⟨calls, hcalls, hin⟩ := step_calls_inBounds s t h
  exact inBounds_of_callsMade hcalls hin htrace

/-- Settles O8: the command at the head of the agenda is the one that is run. -/
theorem stepRunsDecodedCommand : Obligations.StepRunsDecodedCommand :=
  step_of_command

/-- Settles O9: the placed word is at the head of the agenda, and running it takes it off again. -/
theorem placedWordRunsNext : Obligations.PlacedWordRunsNext := by
  intro s nbits w i h
  have hdecode : decode (tableWord nbits w) (tableDin nbits w) = .instr i := by
    unfold decodeTableWord at h
    split at h
    · next hd => rw [hd, Option.some.inj h]
    · cases h
    · cases h
  exact step_of_command (s.withFetchWord nbits w) _ _ s.agenda i rfl rfl hdecode

/-- Settles O16, one event at a time. -/
theorem hungBlockTakesOnlyClearAndReset : Obligations.HungBlockTakesOnlyClearAndReset := by
  refine fun s rest hh => ⟨fun w din => step_of_command_hung s w din rest hh, step_of_edge_hung s rest hh,
    step_of_run_hung s rest hh, fun ha => ?idle, fun ha => ⟨_, step_of_clear s rest ha, rfl, hh⟩,
    fun ha => ⟨_, step_of_reset s rest ha, rfl⟩, ?finished⟩
  case idle =>
    rw [step_of_idle s ha]
    exact if_neg (by simp [hh])
  case finished =>
    rintro ⟨-, -, hnot⟩
    simp [hh] at hnot

/-- Settles O51, by the outcomes of a step. -/
theorem whoWritesGuardState : Obligations.WhoWritesGuardState := by
  refine fun s t h => ⟨fun hne => ?guard, fun hcleared => ?cleared⟩
  case guard =>
    by_contra hnot
    obtain ⟨hreset, hinit⟩ := not_or.mp hnot
    exact hne (step_keeps_gs s t h (fun rest ha => hreset ⟨rest, ha⟩)
      fun w din rest record ha hi => hinit ⟨w, din, rest, record, ha, hi⟩)
  case cleared =>
    by_contra hreset
    obtain ⟨hhc, hirq⟩ := step_keeps_hc_irqEn s t h (not_exists.mp hreset)
    obtain ⟨hset, hclear⟩ | ⟨hset, hclear⟩ := hcleared
    · simp [hhc hset] at hclear
    · simp [hirq hset] at hclear

/-- Settles O52: no step but a command's changes a register, and what a command changes it has recorded. -/
theorem deviceChangesOnlyByWrites : Obligations.DeviceChangesOnlyByWrites := by
  intro s t a h hne
  cases stepOutcome s t h with
  | command w din rest i ha hi hexec =>
    obtain ⟨news, hnews, hwritten⟩ := (commandKeeps_exec i _ t hexec).recorded
    obtain ⟨start, bs, hmem, hlow, hhigh⟩ := hwritten a hne
    exact ⟨w, din, rest, i, start, bs, news, ha, hi, writer_of_dev_ne i _ t a hexec hne, hnews, hmem, hlow, hhigh⟩
  | edge rest => exact absurd (by rw [stepEdge_eq]; rfl) hne
  | run rest _ _ _ hrun =>
    obtain ⟨-, -, -, hdev, -⟩ := stepRun_frame _ t hrun
    exact absurd (by rw [hdev]; rfl) hne
  | illegal | clear | reset | dropped => exact absurd rfl hne

/-- Settles O53, by what a step can make of the latch. -/
theorem whoWritesAlarmFired : Obligations.WhoWritesAlarmFired := by
  intro s t h
  obtain hsame | ⟨hset, hrun⟩ | ⟨hcleared, hclear⟩ := step_alarmFired_cases s t h
  · rw [hsame]
    exact ⟨fun hoff hon => by simp [hoff] at hon, fun hon hoff => by simp [hoff] at hon⟩
  · exact ⟨fun _ _ => hrun, fun _ hoff => by simp [hset] at hoff⟩
  · exact ⟨fun _ hon => by simp [hcleared] at hon, fun _ _ => hclear⟩

/-- Settles O56, by induction on the number of further edges. -/
theorem edgesCoalesce : Obligations.EdgesCoalesce :=
  fun n s rest hh => (steps_edges n s rest hh).trans (step_setAgenda_edge s rest hh).symm

/-- Settles O57: the idle step is the deferred run, which takes the item whatever the answer. -/
theorem pendingRunHappensWhenIdle : Obligations.PendingRunHappensWhenIdle := by
  intro s hwf ha hp hh
  rw [step_of_idle s ha, takeRun_of_pending s hp hh]
  obtain ⟨t, ht⟩ := exists_stepRun s hwf
  refine ⟨t, ht, ?_⟩
  obtain ⟨_, -, -, rfl⟩ | ⟨-, rfl⟩ | ⟨hhang, rfl⟩ := stepRun_cases s t ht
  · exact ⟨rfl, fun _ => rfl⟩
  · exact ⟨rfl, fun _ => rfl⟩
  · exact ⟨rfl, absurd hhang⟩

end Sys2Proof.Machine
end

section
/-! SUPPORT. Proofs of the statements on DEC (spec/40_bcd_codec.md R71) and on the round trips of the codec (R73). First
the number that a byte decodes to. -/

namespace Sys2Proof.Machine

/-- A decoded byte: at most 165, so the eight bits of the answer cut nothing off (R71). -/
theorem bcdDecode_toNat (b : Byte) : (bcdDecode b).toNat = 10 * (b.toNat / 16) + b.toNat % 16 := by
  have hb : b.toNat < 256 := b.isLt
  rw [bcdDecode, BitVec.toNat_ofNat, hiNibble_toNat, loNibble_toNat]
  omega

/-- Encoding cuts the tens to four bits, and decoding gives back what is left. -/
theorem bcdDecode_bcdEncode_toNat (n : Nat) : (bcdDecode (bcdEncode n)).toNat = 10 * (n / 10 % 16) + n % 10 := by
  rw [bcdDecode_toNat, bcdEncode_toNat_div, bcdEncode_toNat_mod]

/-- Below 160 the tens fit four bits, and nothing is lost (R73). -/
theorem bcdDecode_bcdEncode (v : Byte) (hv : v.toNat ≤ 159) : bcdDecode (bcdEncode v.toNat) = v := by
  rw [← BitVec.toNat_inj, bcdDecode_bcdEncode_toNat]
  omega

/-- A valid byte decodes to a number of two decimal digits. -/
theorem bcdDecode_toNat_le (b : Byte) (hb : Claims.IsBcd b) : (bcdDecode b).toNat ≤ 99 := by
  obtain ⟨htens, hunits⟩ := hb
  rw [bcdDecode_toNat]
  omega

/-- A valid byte is the code of the number it decodes to (R73). -/
theorem bcdEncode_bcdDecode (b : Byte) (hb : Claims.IsBcd b) : bcdEncode (bcdDecode b).toNat = b := by
  obtain ⟨htens, hunits⟩ := hb
  have hlt : b.toNat < 256 := b.isLt
  rw [← BitVec.toNat_inj, bcdEncode_toNat, bcdDecode_toNat]
  omega

/-- The codes of 100 to 159 are no digit pairs: their tens are 10 and more (R73). -/
theorem bcdValid_bcdEncode_eq_false (n : Nat) (hlow : 100 ≤ n) (hhigh : n ≤ 159) :
    bcdValid (bcdEncode n) = false := by
  rw [Bool.eq_false_iff, ne_eq, bcdValid_iff_isBcd]
  rintro ⟨htens, -⟩
  have := le_bcdEncode_toNat_div n hlow hhigh
  omega

/-- Valid bytes are ordered as the numbers they decode to (R73). -/
theorem le_iff_bcdDecode_le (a b : Byte) (ha : Claims.IsBcd a) (hb : Claims.IsBcd b) :
    a.toNat ≤ b.toNat ↔ (bcdDecode a).toNat ≤ (bcdDecode b).toNat := by
  obtain ⟨-, haUnits⟩ := ha
  obtain ⟨-, hbUnits⟩ := hb
  rw [bcdDecode_toNat, bcdDecode_toNat]
  omega

/-- The number of DEC's command word (R57): `OP` 2, and the byte in `A`. -/
theorem encodeWord_dec_toNat (b : Byte) : (encodeWord (.dec b)).toNat = 0x20000000 + b.toNat * 0x100 := by
  rw [encodeWord, packWord_toNat]
  simp

/-! ### The statements -/

/-- Settles O19, from the digits of a code and the number a byte decodes to. -/
theorem codecRoundTrips : Obligations.CodecRoundTrips := by
  refine ⟨fun v hv => ⟨(bcdValid_iff_isBcd _).mpr (isBcd_bcdEncode _ hv), bcdDecode_bcdEncode v (by omega)⟩,
    fun b hb => ?valid,
    fun v hlow hhigh => ⟨bcdDecode_bcdEncode v hhigh, bcdValid_bcdEncode_eq_false _ hlow hhigh⟩,
    fun v hv => ?wraps,
    fun a b ha hb => le_iff_bcdDecode_le a b ((bcdValid_iff_isBcd a).mp ha) ((bcdValid_iff_isBcd b).mp hb)⟩
  case valid =>
    have hbcd := (bcdValid_iff_isBcd b).mp hb
    exact ⟨bcdDecode_toNat_le b hbcd, bcdEncode_bcdDecode b hbcd⟩
  case wraps =>
    have hlt : v.toNat < 256 := v.isLt
    rw [bcdDecode_bcdEncode_toNat]
    omega

/-- Settles O20: DEC answers the digit sum, with the sub-code that the validity test chooses. -/
theorem decAnswersDigitSum : Obligations.DecAnswersDigitSum := by
  intro b s
  have hb : b.toNat < 256 := b.isLt
  refine ⟨bcdDecode b, if bcdValid b then .plain else .notBcd, rfl, bcdDecode_toNat b,
    by rw [bcdDecode_toNat]; omega, fun hbcd => ?_, fun hnot => ?_, encodeWord_dec_toNat b⟩
  · rw [if_pos ((bcdValid_iff_isBcd b).mpr hbcd)]
    rfl
  · rw [if_neg (mt (bcdValid_iff_isBcd b).mp hnot)]
    rfl

end Sys2Proof.Machine
end

section
/-! SUPPORT. Proofs of the statements on PARSE (spec/41_timestamp.md R82 to R86). First the character tests in the words
of the statements, and the number that two digits spell. -/

namespace Sys2Proof.Machine

/-! ### Characters (30_encoding.md R55, 41_timestamp.md R84) -/

theorem isDigit_iff (c : Byte) : isDigit c = true ↔ 0x30 ≤ c.toNat ∧ c.toNat ≤ 0x39 := by
  rw [isDigit, Bool.and_eq_true, decide_eq_true_iff, decide_eq_true_iff]

theorem digitAt_iff (str : List Byte) (k : Nat) : digitAt str k = true ↔ Claims.IsDigitAt str k := by
  unfold digitAt Claims.IsDigitAt
  cases str[k]? with
  | none => simp
  | some c => simp [isDigit_iff]

theorem spaceAt_iff (str : List Byte) (k : Nat) : spaceAt str k = true ↔ str[k]? = some 0x20 := by
  unfold spaceAt
  cases str[k]? <;> simp

/-- The day ends at the space, which is at offset 5 or else at 6. -/
theorem dayEnd_eq (date : List Byte) : dayEnd date = if date[5]? = some 0x20 then 5 else 6 := by
  simp only [dayEnd, spaceAt_iff]

/-- A well-formed date, by its characters (R84). -/
theorem wfDate_iff (date : List Byte) :
    wfDate date = true ↔ 8 ≤ date.length ∧ Claims.IsDigitAt date 4
      ∧ (date[5]? = some 0x20 ∨ (9 ≤ date.length ∧ Claims.IsDigitAt date 5 ∧ date[6]? = some 0x20))
      ∧ (if date[5]? = some 0x20 then 5 else 6) < date.length - 2
      ∧ Claims.IsDigitAt date (date.length - 2) ∧ Claims.IsDigitAt date (date.length - 1) := by
  simp only [wfDate, Bool.and_eq_true, Bool.or_eq_true, decide_eq_true_iff, digitAt_iff, spaceAt_iff, dayEnd_eq,
    and_assoc]

/-- A well-formed time, by its characters (R84). -/
theorem wfTime_iff (time : List Byte) :
    wfTime time = true ↔ Claims.IsDigitAt time 0 ∧ Claims.IsDigitAt time 1 ∧ Claims.IsDigitAt time 3
      ∧ Claims.IsDigitAt time 4 ∧ Claims.IsDigitAt time 6 ∧ Claims.IsDigitAt time 7 := by
  simp only [wfTime, Bool.and_eq_true, digitAt_iff, and_assoc]

/-! ### Numbers that digits spell (R83) -/

/-- A digit character is the code of the digit it spells. -/
theorem digit_of_isDigitAt {str : List Byte} {k : Nat} (h : Claims.IsDigitAt str k) :
    digit (charAt str k) ≤ 9 ∧ str[k]? = some (BitVec.ofNat 8 (0x30 + digit (charAt str k))) := by
  obtain ⟨c, hc, hlow, hhigh⟩ := h
  have hchar : charAt str k = c := by rw [charAt, List.getD_eq_getElem?_getD, hc, Option.getD_some]
  rw [hchar, digit, hc, Nat.add_sub_cancel' hlow, BitVec.ofNat_toNat, BitVec.setWidth_eq]
  exact ⟨by omega, rfl⟩

/-- Two digit characters spell their pair. -/
theorem isPair_pairAt {str : List Byte} {k : Nat} (htens : Claims.IsDigitAt str k)
    (hunits : Claims.IsDigitAt str (k + 1)) : Claims.IsPair str k (pairAt str k) := by
  obtain ⟨ht, hcharT⟩ := digit_of_isDigitAt htens
  obtain ⟨hu, hcharU⟩ := digit_of_isDigitAt hunits
  have hdiv : pairAt str k / 10 = digit (charAt str k) := by rw [pairAt]; omega
  have hmod : pairAt str k % 10 = digit (charAt str (k + 1)) := by rw [pairAt]; omega
  refine ⟨by rw [pairAt]; omega, ?_, ?_⟩
  · rw [hdiv, hcharT]
  · rw [hmod, hcharU]

/-- A pair of digits is at most 99. -/
theorem le_of_isPair {str : List Byte} {k v : Nat} (h : Claims.IsPair str k v) : v ≤ 99 := by
  obtain ⟨hle, -⟩ := h
  exact hle

/-- The day of a well-formed date is spelled by the one or two digits before the space (R82). -/
theorem dayOf_spelled (date : List Byte) (h : wfDate date = true) :
    if date[5]? = some 0x20 then dayOf date ≤ 9 ∧ date[4]? = some (BitVec.ofNat 8 (0x30 + dayOf date))
    else Claims.IsPair date 4 (dayOf date) := by
  obtain ⟨-, hfirst, hspace, -⟩ := (wfDate_iff date).mp h
  unfold dayOf
  rw [dayEnd_eq]
  split
  · exact digit_of_isDigitAt hfirst
  · next hno =>
    obtain ⟨-, hsecond, -⟩ := hspace.resolve_left hno
    exact isPair_pairAt hfirst hsecond

/-- The day of a well-formed date has at most two digits. -/
theorem dayOf_le (date : List Byte) (h : wfDate date = true) : dayOf date ≤ 99 := by
  have hday := dayOf_spelled date h
  split at hday
  · obtain ⟨hle, -⟩ := hday
    omega
  · exact le_of_isPair hday

/-- A month number is at most 12. -/
theorem monthFromName_le (name : List Byte) : monthFromName name ≤ 12 := by
  obtain ⟨hzero, -⟩ | ⟨-, hle, -⟩ := isMonthOf_monthFromName name
  · omega
  · exact hle

/-- The year of a well-formed date is spelled by its last two characters (R82). -/
theorem year_spelled (date : List Byte) (h : wfDate date = true) :
    Claims.IsPair date (date.length - 2) (pairAt date (date.length - 2)) := by
  obtain ⟨hlen, -, -, -, htens, hunits⟩ := (wfDate_iff date).mp h
  have hnext : date.length - 2 + 1 = date.length - 1 := by omega
  exact isPair_pairAt htens (hnext ▸ hunits)

/-! ### PARSE (R82) -/

/-- On well-formed strings PARSE answers the record it reads from them. -/
theorem exec_parse_of_wf (date time : List Byte) (s : State) (hdate : wfDate date = true) (htime : wfTime time = true) :
    exec (.parse date time) s = .next (s.answered .ok .plain 0 (parsedRecord date time).toBytes) := by
  simp only [exec, execParse, parseResult, hdate, htime, Bool.and_self, if_true]
  rfl

/-- On ill-formed strings PARSE answers the open function of the two strings (R82 (e)). -/
theorem exec_parse_of_not_wf (date time : List Byte) (s : State) (h : ¬ (wfDate date = true ∧ wfTime time = true)) :
    exec (.parse date time) s = .next (s.answered .ok .plain 0 (Config.parseUnspec date time).toBytes) := by
  simp only [exec, execParse, parseResult, Bool.and_eq_true, h, if_false]
  rfl

/-! ### The statements -/

/-- Settles O23: the model's tests read off the characters they test. -/
theorem wellFormedStrings : Obligations.WellFormedStrings :=
  ⟨wfDate_iff, wfTime_iff⟩

/-- Settles O24: each number is spelled by its characters, and a number of two digits is encoded as a digit pair. -/
theorem parseBuildsTheRecord : Obligations.ParseBuildsTheRecord := by
  intro date time s hdate htime
  obtain ⟨h0, h1, h3, h4, h6, h7⟩ := (wfTime_iff time).mp htime
  have hss := isPair_pairAt h6 h7
  have hmm := isPair_pairAt h3 h4
  have hhh := isPair_pairAt h0 h1
  have hyy := year_spelled date hdate
  refine ⟨pairAt time 6, pairAt time 3, pairAt time 0, dayOf date, monthFromName (date.take 3),
    pairAt date (date.length - 2), exec_parse_of_wf date time s hdate htime, hss, hmm, hhh, dayOf_spelled date hdate,
    isMonthOf_monthFromName _, hyy, fun n hn => isBcd_bcdEncode n ?_⟩
  have hmon := monthFromName_le (date.take 3)
  simp only [List.mem_cons, List.not_mem_nil, or_false] at hn
  obtain rfl | rfl | rfl | rfl | rfl | rfl := hn
  · exact le_of_isPair hss
  · exact le_of_isPair hmm
  · exact le_of_isPair hhh
  · exact dayOf_le date hdate
  · omega
  · exact le_of_isPair hyy

/-- Settles O25: `OK` and the open function's record, whatever it is. -/
theorem parseOfIllFormedIsAFunction : Obligations.ParseOfIllFormedIsAFunction :=
  fun date time s h => ⟨exec_parse_of_not_wf date time s h, rfl⟩

end Sys2Proof.Machine
end
